-- ==== Sys2Proof/Word.lean ====
section
/-! DEFINITION. Word and field types of the machine (spec/00_scope.md R7, R9, R10; spec/30_encoding.md R72).
Every value is unsigned; a width is imposed only where the spec imposes it. -/

namespace Sys2Proof

/-- A byte: a memory location, a general register, a timer, an immediate NN (R7, R72). -/
abbrev Byte := BitVec 8

/-- A 16-bit word: the instruction word, I, pc, a stack entry, the key-down mask (R7). -/
abbrev Word := BitVec 16

/-- The 12-bit address field NNN of an instruction word (R72). -/
abbrev Addr := BitVec 12

/-- One display row of 64 pixels as the display port shows it (spec/43_display.md R181). -/
abbrev RowWord := BitVec 64

/-- The index of a general register, a field X or Y (R21, R72). -/
abbrev Reg := Fin 16

/-- The index of a key, 0x0 to 0xF (spec/10_state.md R31). -/
abbrev Key := Fin 16

/-- VF, the flag register (spec/10_state.md R22). -/
abbrev regVF : Reg := 15

/-- Zero extension to 16 bits, `zext_16` of R10. -/
abbrev zext16 {n : Nat} (b : BitVec n) : Word := b.setWidth 16

end Sys2Proof
end

