-- ==== Sys2Proof/Machine/Flags.lean ====
section
/-! DEFINITION. Every computation of VF the spec gives (spec/10_state.md R22, spec/42_alu.md R157 to R164,
spec/43_display.md R184). -/

namespace Sys2Proof.Machine

/-- A flag's value as the byte written to VF. -/
def flagByte (b : Bool) : Byte := if b then 1 else 0

/-- The carry of Add: 1 iff zext_9(a) + zext_9(b) > 0xFF (R157). -/
def carryFlag (a b : Byte) : Byte := flagByte (decide (0xFF < a.toNat + b.toNat))

/-- The inverted borrow of a - b: 1 iff a >= b (R158). -/
def noBorrowFlag (a b : Byte) : Byte := flagByte (decide (b.toNat ≤ a.toNat))

/-- The bit ShiftRight shifts out: bit 0 (R162). -/
def shiftRightFlag (t : Byte) : Byte := t &&& 1

/-- The bit ShiftLeft shifts out: bit 7, as 0 or 1 (R164). -/
def shiftLeftFlag (t : Byte) : Byte := (t >>> 7) &&& 1

end Sys2Proof.Machine
end

