-- ==== Sys2Proof/Syntax.lean ====
section
/-! DEFINITION. The instructions: one constructor for each of the 35 operations of spec/30_encoding.md R76,
in the order of spec/opcode_table.json. A decode failure is no operation (R90) and has no constructor. -/

namespace Sys2Proof

/-- The 35 operations. Bits that a format ignores (N of families 5 and 9, R78) are no operand. -/
inductive Instr where
  | clearDisplay
  | ret
  | callNative (nnn : Addr)
  | jump (nnn : Addr)
  | call (nnn : Addr)
  | skipIfEqualImmediate (x : Reg) (nn : Byte)
  | skipIfNotEqualImmediate (x : Reg) (nn : Byte)
  | skipIfRegistersEqual (x y : Reg)
  | loadImmediate (x : Reg) (nn : Byte)
  | addImmediate (x : Reg) (nn : Byte)
  | copy (x y : Reg)
  | or (x y : Reg)
  | and (x y : Reg)
  | xor (x y : Reg)
  | add (x y : Reg)
  | sub (x y : Reg)
  | shiftRight (x y : Reg)
  | subReverse (x y : Reg)
  | shiftLeft (x y : Reg)
  | skipIfRegistersNotEqual (x y : Reg)
  | setIndex (nnn : Addr)
  | jumpWithOffset (nnn : Addr)
  | loadRandomMasked (x : Reg) (nn : Byte)
  /-- `n` is the row count, 0 to 15 (R74). -/
  | drawSprite (x y : Reg) (n : Fin 16)
  | skipIfKeyPressed (x : Reg)
  | skipIfKeyNotPressed (x : Reg)
  | loadFromDelayTimer (x : Reg)
  | awaitKey (x : Reg)
  | loadDelayTimer (x : Reg)
  | loadSoundTimer (x : Reg)
  | addToIndex (x : Reg)
  | loadFontAddress (x : Reg)
  | storeBCD (x : Reg)
  | storeRegisters (x : Reg)
  | loadRegisters (x : Reg)
  deriving DecidableEq, Repr

end Sys2Proof
end

