-- ==== Sys2Proof/WellFormed.lean ====
section
/-! DEFINITION. Well-formed instructions: those some instruction word stands for. The operand types already bound
every field; the one further check is the exclusion in family 0 (spec/30_encoding.md R76 row 3, R77). -/

namespace Sys2Proof

/-- "0NNN, except 00E0 and 00EE" (R76): those two words are ClearDisplay and Return, so no CallNative has their
address field. Every other instruction is well-formed. -/
def Instr.wellFormed : Instr → Bool
  | .callNative nnn => nnn != 0x0E0 && nnn != 0x0EE
  | _ => true

end Sys2Proof
end

