-- ==== Sys2Proof/Decode.lean ====
section
/-! DEFINITION. The decoder and, after it, the encoder (spec/30_encoding.md). The decoder is a "pure total function"
of the instruction word (R71); what it does not decode it rejects by name. -/

namespace Sys2Proof

/-- Why bytes do not decode. -/
inductive DecodeError where
  /-- The decode failure of R90; it carries the word. -/
  | unknownOpcode (w : Word)
  /-- Fewer than the 2 bytes of an instruction (R70). The machine's fetch never gives this. -/
  | truncated
  deriving DecidableEq, Repr

/-- A 4-bit field as an index or a count 0..15 (R72, R74). -/
def indexOfNibble (b : BitVec 4) : Fin 16 := ⟨b.toNat, b.isLt⟩

/-- An index or a count 0..15 as a 4-bit field (R72). -/
def nibbleOfIndex (k : Fin 16) : BitVec 4 := BitVec.ofNat 4 k.val

/-- F, the family: w[15:12] (R72). -/
def fieldF (w : Word) : BitVec 4 := w.extractLsb' 12 4

/-- X: w[11:8] (R72). -/
def fieldX (w : Word) : Reg := indexOfNibble (w.extractLsb' 8 4)

/-- Y: w[7:4] (R72). -/
def fieldY (w : Word) : Reg := indexOfNibble (w.extractLsb' 4 4)

/-- N: w[3:0] (R72). -/
def fieldN (w : Word) : Fin 16 := indexOfNibble (w.extractLsb' 0 4)

/-- NN: w[7:0] (R72). -/
def fieldNN (w : Word) : Byte := w.extractLsb' 0 8

/-- NNN: w[11:0] (R72). -/
def fieldNNN (w : Word) : Addr := w.extractLsb' 0 12

/-- Family 0, decoded on the full word (R77). -/
def decodeFamily0 (w : Word) : Instr :=
  if w = 0x00E0 then .clearDisplay
  else if w = 0x00EE then .ret
  else .callNative (fieldNNN w)

/-- Family 8, decoded on N (R79; the pairing of selectors and operations: R76, log 14; N = 8: log 20). -/
def decodeFamily8 (w : Word) : Except DecodeError Instr :=
  match (fieldN w).val with
  | 0x0 => .ok (.copy (fieldX w) (fieldY w))
  | 0x1 => .ok (.or (fieldX w) (fieldY w))
  | 0x2 => .ok (.and (fieldX w) (fieldY w))
  | 0x3 => .ok (.xor (fieldX w) (fieldY w))
  | 0x4 => .ok (.add (fieldX w) (fieldY w))
  | 0x5 => .ok (.sub (fieldX w) (fieldY w))
  | 0x6 => .ok (.shiftRight (fieldX w) (fieldY w))
  | 0x7 => .ok (.subReverse (fieldX w) (fieldY w))
  | 0xE => .ok (.shiftLeft (fieldX w) (fieldY w))
  | _ => .error (.unknownOpcode w)

/-- Family E, decoded on NN (R80). -/
def decodeFamilyE (w : Word) : Except DecodeError Instr :=
  match (fieldNN w).toNat with
  | 0x9E => .ok (.skipIfKeyPressed (fieldX w))
  | 0xA1 => .ok (.skipIfKeyNotPressed (fieldX w))
  | _ => .error (.unknownOpcode w)

/-- Family F, decoded on NN (R81). -/
def decodeFamilyF (w : Word) : Except DecodeError Instr :=
  match (fieldNN w).toNat with
  | 0x07 => .ok (.loadFromDelayTimer (fieldX w))
  | 0x0A => .ok (.awaitKey (fieldX w))
  | 0x15 => .ok (.loadDelayTimer (fieldX w))
  | 0x18 => .ok (.loadSoundTimer (fieldX w))
  | 0x1E => .ok (.addToIndex (fieldX w))
  | 0x29 => .ok (.loadFontAddress (fieldX w))
  | 0x33 => .ok (.storeBCD (fieldX w))
  | 0x55 => .ok (.storeRegisters (fieldX w))
  | 0x65 => .ok (.loadRegisters (fieldX w))
  | _ => .error (.unknownOpcode w)

/-- The whole decoder on an instruction word (R82). The last arm is family F, the one family left. -/
def decodeWord (w : Word) : Except DecodeError Instr :=
  match (fieldF w).toNat with
  | 0x0 => .ok (decodeFamily0 w)
  | 0x1 => .ok (.jump (fieldNNN w))
  | 0x2 => .ok (.call (fieldNNN w))
  | 0x3 => .ok (.skipIfEqualImmediate (fieldX w) (fieldNN w))
  | 0x4 => .ok (.skipIfNotEqualImmediate (fieldX w) (fieldNN w))
  | 0x5 => .ok (.skipIfRegistersEqual (fieldX w) (fieldY w))
  | 0x6 => .ok (.loadImmediate (fieldX w) (fieldNN w))
  | 0x7 => .ok (.addImmediate (fieldX w) (fieldNN w))
  | 0x8 => decodeFamily8 w
  | 0x9 => .ok (.skipIfRegistersNotEqual (fieldX w) (fieldY w))
  | 0xA => .ok (.setIndex (fieldNNN w))
  | 0xB => .ok (.jumpWithOffset (fieldNNN w))
  | 0xC => .ok (.loadRandomMasked (fieldX w) (fieldNN w))
  | 0xD => .ok (.drawSprite (fieldX w) (fieldY w) (fieldN w))
  | 0xE => decodeFamilyE w
  | _ => decodeFamilyF w

/-- Two bytes as a big-endian word: the byte at the lower address holds bits 15..8 (spec/20_memory.md R53). -/
def wordOfBytes (hi lo : Byte) : Word := hi ++ lo

/-- Bits 15..8 of a word, the byte at the lower address (R53). -/
def highByte (w : Word) : Byte := w.extractLsb' 8 8

/-- Bits 7..0 of a word, the byte at the higher address (R53). -/
def lowByte (w : Word) : Byte := w.extractLsb' 0 8

/-- Decoding bytes: exactly 2 are consumed (R70), the rest is given back. -/
def decode : List Byte → Except DecodeError (Instr × List Byte)
  | hi :: lo :: rest =>
    match decodeWord (wordOfBytes hi lo) with
    | .ok i => .ok (i, rest)
    | .error e => .error e
  | _ => .error .truncated

/-- Format NNN: `FFFFkkkkkkkkkkkk` (R73). -/
def formatNNN (f : BitVec 4) (nnn : Addr) : Word := f ++ nnn

/-- Formats XNN and XSS: `FFFFxxxxkkkkkkkk`, the low byte an immediate or a sub-selector (R73). -/
def formatXNN (f : BitVec 4) (x : Reg) (nn : Byte) : Word :=
  ((f ++ nibbleOfIndex x : Byte) ++ nn : Word)

/-- Formats XY, XYS and XYN: `FFFFxxxxyyyynnnn`, the low nibble ignored, a sub-selector or a count (R73). -/
def formatXYN (f : BitVec 4) (x y : Reg) (n : BitVec 4) : Word :=
  ((f ++ nibbleOfIndex x : Byte) ++ (nibbleOfIndex y ++ n : Byte) : Word)

/-- The word of an instruction, from the patterns of R73 and R76. An ignored nibble is written as 0. -/
def encode : Instr → Word
  | .clearDisplay => 0x00E0
  | .ret => 0x00EE
  | .callNative nnn => formatNNN 0x0 nnn
  | .jump nnn => formatNNN 0x1 nnn
  | .call nnn => formatNNN 0x2 nnn
  | .skipIfEqualImmediate x nn => formatXNN 0x3 x nn
  | .skipIfNotEqualImmediate x nn => formatXNN 0x4 x nn
  | .skipIfRegistersEqual x y => formatXYN 0x5 x y 0x0
  | .loadImmediate x nn => formatXNN 0x6 x nn
  | .addImmediate x nn => formatXNN 0x7 x nn
  | .copy x y => formatXYN 0x8 x y 0x0
  | .or x y => formatXYN 0x8 x y 0x1
  | .and x y => formatXYN 0x8 x y 0x2
  | .xor x y => formatXYN 0x8 x y 0x3
  | .add x y => formatXYN 0x8 x y 0x4
  | .sub x y => formatXYN 0x8 x y 0x5
  | .shiftRight x y => formatXYN 0x8 x y 0x6
  | .subReverse x y => formatXYN 0x8 x y 0x7
  | .shiftLeft x y => formatXYN 0x8 x y 0xE
  | .skipIfRegistersNotEqual x y => formatXYN 0x9 x y 0x0
  | .setIndex nnn => formatNNN 0xA nnn
  | .jumpWithOffset nnn => formatNNN 0xB nnn
  | .loadRandomMasked x nn => formatXNN 0xC x nn
  | .drawSprite x y n => formatXYN 0xD x y (nibbleOfIndex n)
  | .skipIfKeyPressed x => formatXNN 0xE x 0x9E
  | .skipIfKeyNotPressed x => formatXNN 0xE x 0xA1
  | .loadFromDelayTimer x => formatXNN 0xF x 0x07
  | .awaitKey x => formatXNN 0xF x 0x0A
  | .loadDelayTimer x => formatXNN 0xF x 0x15
  | .loadSoundTimer x => formatXNN 0xF x 0x18
  | .addToIndex x => formatXNN 0xF x 0x1E
  | .loadFontAddress x => formatXNN 0xF x 0x29
  | .storeBCD x => formatXNN 0xF x 0x33
  | .storeRegisters x => formatXNN 0xF x 0x55
  | .loadRegisters x => formatXNN 0xF x 0x65

/-- The bytes of an instruction as memory holds them, high byte first (R53). -/
def encodeBytes (i : Instr) : List Byte := [highByte (encode i), lowByte (encode i)]

/-- The 16-bit instruction word that the table's `nbits` low bits of `w` stand for, every bit above them 0. -/
def tableWord (nbits w : Nat) : Word := BitVec.ofNat 16 (w % 2 ^ nbits)

/-- What the decoder reads from the table's word, laid out in bytes as memory holds it (R53). -/
def decodeTableWord (nbits w : Nat) : Option Instr :=
  match decode [highByte (tableWord nbits w), lowByte (tableWord nbits w)] with
  | .ok (i, _) => some i
  | .error _ => none

end Sys2Proof
end

