-- ==== Sys2Proof/Config.lean ====
section
/-! DEFINITION. Configuration: the named parameters of spec/00_scope.md R8 with their domains and defaults,
the fixed sizes of R7, and the one free value, the random byte. -/

namespace Sys2Proof

/-- When the timers tick (spec/45_timers_keys.md R230). -/
inductive TimerTickMode where
  /-- Once at the end of every step that returns OK; the default. -/
  | perStep
  /-- Once per host TimerTick event, never during a step. -/
  | hostTick
  deriving DecidableEq, Repr

/-- What a key test with an index above 0xF does (spec/45_timers_keys.md R220). -/
inductive KeyIndexPolicy where
  /-- It raises KeyIndexOutOfRange; the default. -/
  | fault
  /-- It tests the key of the low nibble. -/
  | maskLowNibble
  /-- It answers that the key is not down. -/
  | notPressed
  deriving DecidableEq, Repr

/-- Whether a shift reads V[Y] after or before its write of VF (spec/42_alu.md R159). -/
inductive ShiftOperandReading where
  /-- After the flag write; the default. -/
  | sequential
  /-- Once, before any write. -/
  | latched
  deriving DecidableEq, Repr

/-- The parameters a model of this hardware takes (R8). They are fixed for a machine: no step writes them. -/
structure Config where
  /-- FONT: the 80 bytes copied to 0x000..0x04F at construction. -/
  font : Vector Byte 80
  timerTickMode : TimerTickMode
  keyIndexPolicy : KeyIndexPolicy
  shiftOperandReading : ShiftOperandReading
  deriving DecidableEq, Repr

/-- MEM_SIZE of R7. -/
abbrev memSize : Nat := 4096

/-- ENTRY of R7: the construction value of pc and the address of a program image's first byte. -/
abbrev entry : Nat := 0x200

/-- MAX_IMAGE of R7. -/
abbrev maxImage : Nat := memSize - entry

/-- The glyphs 0 to 7 of the default FONT (spec/20_memory.md R57).
PRESUMED: the spec takes these bytes from general knowledge (log 2). -/
def standardGlyphsLow : List Byte :=
  [0xF0, 0x90, 0x90, 0x90, 0xF0] ++ [0x20, 0x60, 0x20, 0x20, 0x70] ++
  [0xF0, 0x10, 0xF0, 0x80, 0xF0] ++ [0xF0, 0x10, 0xF0, 0x10, 0xF0] ++
  [0x90, 0x90, 0xF0, 0x10, 0x10] ++ [0xF0, 0x80, 0xF0, 0x10, 0xF0] ++
  [0xF0, 0x80, 0xF0, 0x90, 0xF0] ++ [0xF0, 0x10, 0x20, 0x40, 0x40]

/-- The glyphs 8 to F of the default FONT (R57, log 2). -/
def standardGlyphsHigh : List Byte :=
  [0xF0, 0x90, 0xF0, 0x90, 0xF0] ++ [0xF0, 0x90, 0xF0, 0x10, 0xF0] ++
  [0xF0, 0x90, 0xF0, 0x90, 0x90] ++ [0xE0, 0x90, 0xE0, 0x90, 0xE0] ++
  [0xF0, 0x80, 0x80, 0x80, 0xF0] ++ [0xE0, 0x90, 0x90, 0x90, 0xE0] ++
  [0xF0, 0x80, 0xF0, 0x80, 0xF0] ++ [0xF0, 0x80, 0xF0, 0x80, 0x80]

/-- The 80 bytes of the default FONT, glyph d at 5*d (R57). -/
def standardFont : List Byte := standardGlyphsLow ++ standardGlyphsHigh

/-- The configuration with every parameter at its default (R8; DESIGN CHOICE for the machine after reset, log 3). -/
def Config.default : Config where
  font := ⟨standardFont.toArray, rfl⟩
  timerTickMode := .perStep
  keyIndexPolicy := .fault
  shiftOperandReading := .sequential

/-- The free value: the random byte of the n-th draw (spec/42_alu.md R165, "newly drawn each invocation").
It has no body, so nothing can be proved of any of its values (log 4). -/
opaque Config.rndByte : Nat → Byte

end Sys2Proof
end

