-- ==== Sys2Proof/Machine/Memory.lean ====
section
/-! DEFINITION. The memory array (spec/20_memory.md): 4096 bytes held as the list of those that differ from the
contents after construction, in one canonical form. -/

namespace Sys2Proof.Machine

/-- Memory as a list of (address, byte). Its canonical form is `Memory.wf`. -/
abbrev Memory := List Host.Cell

/-- What an unlisted address reads as: its content after Construct with the default FONT and no image
(R56, spec/10_state.md R35; log 7). -/
def Memory.background (a : Nat) : Byte := standardFont.getD a 0

/-- MemRead(a, 1) (R52): the byte at address `a`. -/
def Memory.read (m : Memory) (a : Nat) : Byte :=
  match m with
  | [] => Memory.background a
  | (k, b) :: rest => if k = a then b else Memory.read rest a

/-- The memory with a cell put at its place in address order. -/
def Memory.insertCell (a : Nat) (b : Byte) : Memory → Memory
  | [] => [(a, b)]
  | (k, c) :: rest => if a < k then (a, b) :: (k, c) :: rest else (k, c) :: Memory.insertCell a b rest

/-- The memory with nothing listed at address `a`. -/
def Memory.erase (m : Memory) (a : Nat) : Memory := m.filter (fun c => c.1 != a)

/-- MemWrite(a, 1, v) (R52): only the byte at `a` changes. Writing what an unlisted address reads as removes the cell. -/
def Memory.write (m : Memory) (a : Nat) (b : Byte) : Memory :=
  if b = Memory.background a then Memory.erase m a else Memory.insertCell a b (Memory.erase m a)

/-- `n` bytes read at addresses `a`, `a + 1`, .. in this order. -/
def Memory.readBytes (m : Memory) (a : Nat) : Nat → List Byte
  | 0 => []
  | n + 1 => Memory.read m a :: Memory.readBytes m (a + 1) n

/-- Bytes written at addresses `a`, `a + 1`, .. in this order. -/
def Memory.writeBytes (m : Memory) (a : Nat) : List Byte → Memory
  | [] => m
  | b :: bs => Memory.writeBytes (Memory.write m a b) (a + 1) bs

/-- The canonical form from address `lo` on: addresses rise, exist (R50), and no cell is the byte an unlisted address
reads as. -/
def Memory.wfFrom (lo : Nat) : Memory → Bool
  | [] => true
  | (a, b) :: rest =>
    decide (lo ≤ a) && decide (a < memSize) && (b != Memory.background a) && Memory.wfFrom (a + 1) rest

/-- The canonical form: equal memories are equal lists. -/
def Memory.wf (m : Memory) : Bool := Memory.wfFrom 0 m

end Sys2Proof.Machine
end

