-- ==== Sys2Proof/Machine/State.lean ====
section
/-! DEFINITION. The state of the machine (spec/10_state.md R20), the results of a step (spec/40_step.md R106), the
stops of the model, and the state after reset (R35). -/

namespace Sys2Proof.Machine

/-- The five error kinds a step can return (spec/60_exceptions.md R250 to R255). -/
inductive ErrorKind where
  /-- Raised by the fetch when pc > 0xFFE (R251). -/
  | pcOutOfRange
  /-- Raised by Call at sp = 16 (R252). -/
  | stackOverflow
  /-- Raised by Return at sp = 0 (R253). -/
  | stackUnderflow
  /-- Raised by an access through I beyond 0xFFF (R254). -/
  | memOutOfRange
  /-- Raised by a key test with an index above 0xF under the policy `fault` (R255). -/
  | keyIndexOutOfRange
  deriving DecidableEq, Repr

/-- The diagnostics an OK step can carry (R256). -/
inductive Diagnostic where
  | unknownOpcode (w : Word)
  | nativeCall (nnn : Addr)
  deriving DecidableEq, Repr

/-- The one result of a step (spec/40_step.md R106). -/
inductive StepResult where
  | ok (diag : Option Diagnostic)
  | err (kind : ErrorKind)
  deriving DecidableEq, Repr

/-- The faults that stop the machine. There is none: the block has no trap and "accepts further steps, which run from
the state the error left" (R250), so an error is a step's result, not a stop (log 5). No one raises a fault (safe). -/
inductive Fault : Type
  deriving DecidableEq, Repr

/-- What the model gives no meaning. -/
inductive Refusal where
  /-- An instruction without a meaning; no arm of `exec` answers it (safe). -/
  | notModelled (mnemonic : String)
  /-- Raised by the host event TimerTick in `per_step` mode, in which it is not accepted
  (spec/40_step.md R100: "accepted only when `timer_tick_mode = host_tick`"; log 9; safe). No instruction raises it. -/
  | timerTickNotAccepted
  deriving DecidableEq, Repr

/-- The state. The fields `mem` to `lastKey` are the architectural state of R20, "and no others"; the rest is the
model's own (the configuration, the random input, the step's output, and the record of R257). -/
structure State where
  /-- Memory (R50): the bytes that differ from the contents after construction, addresses strictly rising. -/
  mem : List Host.Cell
  /-- V[0]..V[15] (R21). -/
  v : Vector Byte 16
  /-- The index register I (R24). -/
  i : Word
  /-- The program counter (R25). -/
  pc : Word
  /-- The return stack (R27). -/
  stack : Vector Word 16
  /-- The stack pointer, 0..16 (R28; its type: log 11). -/
  sp : Fin 17
  /-- The display (R29), row by row as the display port shows it (R181; log 12). -/
  disp : Vector RowWord 32
  /-- DT (R30). -/
  dt : Byte
  /-- ST (R30). -/
  st : Byte
  /-- The key-down mask (R31). -/
  keys : Word
  /-- last_key: none or a key (R32). -/
  lastKey : Option Key
  /-- The parameters of R8 (configuration, not architectural state; log 1). -/
  config : Config
  /-- The random input byte of the step being executed (R100; log 4). -/
  rnd : Byte
  /-- How many random bytes were drawn (the model's own; log 4). -/
  draws : Nat
  /-- The result of the latest step (R106; log 6). -/
  result : StepResult
  /-- The first ERR kind any step returned (R257; log 5). -/
  faulted : Option ErrorKind
  deriving DecidableEq, Repr

/-- The machine right after Construct with no image (R35, R280), with the default parameters (log 3).
The values of `rnd`, `draws` and `result` are DESIGN CHOICE (log 4, log 6). -/
def State.reset : State where
  mem := []
  v := Vector.replicate 16 0
  i := 0
  pc := 0x200
  stack := Vector.replicate 16 0
  sp := 0
  disp := Vector.replicate 32 0
  dt := 0
  st := 0
  keys := 0
  lastKey := none
  config := Config.default
  rnd := 0
  draws := 0
  result := .ok none
  faulted := none

end Sys2Proof.Machine
end

