-- ==== Sys2Proof/Machine/Ops.lean ====
section
/-! DEFINITION. The operations every instruction is written from: reads and writes of each piece of state, the return
stack, the end of an instruction (completed, or raising an error), the fetch and the timer tick. -/

namespace Sys2Proof.Machine

/-- The outcome of an instruction or a step. -/
abbrev Result := Host.Outcome State Fault Refusal

namespace State

/-- `V[r]` (spec/10_state.md R21). -/
def getV (s : State) (r : Reg) : Byte := s.v.get r

/-- `V[r] <- b` (R21). -/
def setV (s : State) (r : Reg) (b : Byte) : State := { s with v := s.v.set r.val b r.isLt }

/-- `I <- w` (R24). -/
def setI (s : State) (w : Word) : State := { s with i := w }

/-- `pc <- w` (R25). -/
def setPc (s : State) (w : Word) : State := { s with pc := w }

/-- `DT <- b` (R30). -/
def setDt (s : State) (b : Byte) : State := { s with dt := b }

/-- `ST <- b` (R30). -/
def setSt (s : State) (b : Byte) : State := { s with st := b }

/-- The display replaced (R29). -/
def setDisp (s : State) (d : Vector RowWord 32) : State := { s with disp := d }

/-- The memory replaced (spec/20_memory.md R50). -/
def setMem (s : State) (m : Memory) : State := { s with mem := m }

/-- The general registers replaced (R21). -/
def setRegs (s : State) (v : Vector Byte 16) : State := { s with v := v }

/-- The byte at address `a` (spec/20_memory.md R52). -/
def readMem (s : State) (a : Nat) : Byte := Memory.read s.mem a

/-- `stack[sp] <- ra; sp <- sp + 1`, or none at sp = 16 (spec/41_control_flow.md R124). -/
def push (s : State) (ra : Word) : Option State :=
  if h : s.sp.val < 16 then
    some { s with stack := s.stack.set s.sp.val ra h, sp := ⟨s.sp.val + 1, by omega⟩ }
  else none

/-- `stack[sp - 1]` with `sp <- sp - 1`, the entry kept, or none at sp = 0 (R121). -/
def pop (s : State) : Option (Word × State) :=
  if h : 0 < s.sp.val then
    some (s.stack[s.sp.val - 1]'(by omega), { s with sp := ⟨s.sp.val - 1, by omega⟩ })
  else none

/-- The result of the step recorded (spec/40_step.md R106). -/
def setResult (s : State) (r : StepResult) : State := { s with result := r }

/-- The state an error leaves: its kind as the step's result and, if it is the first, in the record `faulted`.
Nothing else changes (R104; spec/60_exceptions.md R250, R257). -/
def withError (s : State) (k : ErrorKind) : State :=
  { s with result := .err k, faulted := some (s.faulted.getD k) }

/-- The random input of the step (spec/40_step.md R100). -/
def setRnd (s : State) (b : Byte) : State := { s with rnd := b }

/-- One more random byte drawn (log 4). -/
def nextDraw (s : State) : State := { s with draws := s.draws + 1 }

end State

/-- The instruction completed without diagnostic: the step's result is OK (spec/40_step.md R106). -/
def complete (s : State) : Result := .next (s.setResult (.ok none))

/-- The instruction completed with a diagnostic, which "changes no architectural state" (spec/60_exceptions.md R256). -/
def completeWith (d : Diagnostic) (s : State) : Result := .next (s.setResult (.ok (some d)))

/-- `raise Error(kind)` (spec/00_scope.md R11; spec/60_exceptions.md R250): "nothing is saved, no mode changes, and
control does not go to a handler", so the state is as the fetch left it and the step's result is ERR(kind). This is the
machine's one way of taking an error. There is no return from it (R260). -/
def raiseError (k : ErrorKind) (s : State) : Result := .next (s.withError k)

/-- `pc <- pc + 2`: the fetch's increment (spec/40_step.md R102) and the skip's (spec/41_control_flow.md R126). -/
def State.advancePc (s : State) : State := s.setPc (s.pc + 2)

/-- A skip: it advances pc when its condition holds and "changes nothing" otherwise (R126). -/
def State.skipIf (c : Bool) (s : State) : State := if c then s.advancePc else s

/-- Whether the fetch stays inside memory: not pc > 0xFFE (spec/40_step.md R101). -/
def State.canFetch (s : State) : Bool := decide (s.pc.toNat ≤ 0xFFE)

/-- The instruction word at pc, big-endian (R102; spec/20_memory.md R53). -/
def State.fetchWord (s : State) : Word := wordOfBytes (s.readMem s.pc.toNat) (s.readMem (s.pc.toNat + 1))

/-- One timer's countdown: it saturates at 0 (spec/45_timers_keys.md R230). -/
def countDown (t : Byte) : Byte := if t = 0 then 0 else t - 1

/-- One timer tick: DT and ST count down independently (R230). -/
def State.tick (s : State) : State := (s.setDt (countDown s.dt)).setSt (countDown s.st)

/-- Whether the step's result is OK (spec/40_step.md R106). -/
def StepResult.isOk : StepResult → Bool
  | .ok _ => true
  | .err _ => false

/-- The end of a step: one tick iff the result is OK and the mode is `per_step` (R105, R107). -/
def State.endStep (s : State) : State :=
  if s.result.isOk && s.config.timerTickMode == .perStep then s.tick else s

/-- The bytes of an instruction word stored at pc, high byte first (spec/20_memory.md R53). -/
def State.placeWord (s : State) (w : Word) : State :=
  s.setMem (Memory.writeBytes s.mem s.pc.toNat [highByte w, lowByte w])

/-- A state whose next fetch stays inside memory: pc is moved to the entry point where it does not (log 24). -/
def State.atFetchable (s : State) : State := if s.canFetch then s else s.setPc (BitVec.ofNat 16 entry)

end Sys2Proof.Machine
end

