-- ==== Sys2Proof/Machine/Operands.lean ====
section
/-! DEFINITION. The operand forms beyond a register or an immediate: the bytes at I (spec/44_index_memory.md R200), the
key index (spec/45_timers_keys.md R220) and the shift operand (spec/42_alu.md R159). -/

namespace Sys2Proof.Machine

/-- The check of an access of `count` bytes at I: all of I..I+count-1 are addresses, with an exact sum. "A count of 0
touches no address and never fails" (spec/20_memory.md R55). -/
def State.indexInRange (s : State) (count : Nat) : Bool :=
  decide (count = 0 ∨ s.i.toNat + count - 1 ≤ 0xFFF)

/-- The `count` bytes at I, I+1, .. (R59). -/
def State.bytesAtIndex (s : State) (count : Nat) : List Byte := Memory.readBytes s.mem s.i.toNat count

/-- Bytes stored at I, I+1, .. (R59). I itself is not changed (R200). -/
def State.storeAtIndex (s : State) (bs : List Byte) : State := s.setMem (Memory.writeBytes s.mem s.i.toNat bs)

/-- V[0]..V[x] in order, as StoreRegisters stores them (spec/44_index_memory.md R208). -/
def State.regsUpTo (s : State) (x : Reg) : List Byte := s.v.toList.take (x.val + 1)

/-- The registers with bytes written to V[k], V[k+1], .. in this order (R210). -/
def writeRegsFrom (v : Vector Byte 16) (k : Nat) : List Byte → Vector Byte 16
  | [] => v
  | b :: bs => writeRegsFrom (v.setIfInBounds k b) (k + 1) bs

/-- The three decimal digits of a byte, hundreds first (R205). -/
def bcdDigits (b : Byte) : List Byte :=
  [BitVec.ofNat 8 (b.toNat / 100), BitVec.ofNat 8 (b.toNat / 10 % 10), BitVec.ofNat 8 (b.toNat % 10)]

/-- The address of the glyph of a value's low nibble: 0x000 + 5 * (b & 0xF) (R203; spec/20_memory.md R57). -/
def glyphAddress (b : Byte) : Word := BitVec.ofNat 16 (5 * (b &&& 0xF).toNat)

/-- Bit k of the key-down mask (spec/10_state.md R31). -/
def State.keyBit (s : State) (k : Nat) : Bool := s.keys.getLsbD k

/-- keyDown(v): whether key v is down; none where it raises KeyIndexOutOfRange (spec/45_timers_keys.md R220). -/
def State.keyDown (s : State) (idx : Byte) : Option Bool :=
  if idx.toNat ≤ 0xF then some (s.keyBit idx.toNat)
  else
    match s.config.keyIndexPolicy with
    | .fault => none
    | .maskLowNibble => some (s.keyBit (idx &&& 0xF).toNat)
    | .notPressed => some false

/-- The operand a shift's result is computed from: V[Y] read after the flag write (`flagged` is the state it left) or
before it, as the parameter says (spec/42_alu.md R159). -/
def State.shiftOperand (s flagged : State) (y : Reg) : Byte :=
  match s.config.shiftOperandReading with
  | .sequential => flagged.getV y
  | .latched => s.getV y

end Sys2Proof.Machine
end

