-- ==== Sys2Proof/Machine/Alu.lean ====
section
/-! DEFINITION. The ALU family (spec/42_alu.md): immediates, register logic, add and subtract, shifts, random. No
instruction of it raises an error (R150). -/

namespace Sys2Proof.Machine

/-- Add, Sub and SubReverse write the result to V[X] first and the flag to VF second (R159). -/
def State.writeResultThenFlag (s : State) (x : Reg) (result flag : Byte) : State :=
  (s.setV x result).setV regVF flag

/-- A shift writes the flag first and the result second, which is computed from the operand as the parameter
`shift_operand_reading` reads it (R159). -/
def State.shiftWith (s : State) (flag result : Byte → Byte) (x y : Reg) : State :=
  let flagged := s.setV regVF (flag (s.getV y))
  flagged.setV x (result (s.shiftOperand flagged y))

/-- LoadImmediate: `V[X] <- NN` (R151). -/
def execLoadImmediate (x : Reg) (nn : Byte) (s : State) : Result := complete (s.setV x nn)

/-- AddImmediate: `V[X] <- (V[X] + NN) mod 256`, no flag (R152). -/
def execAddImmediate (x : Reg) (nn : Byte) (s : State) : Result := complete (s.setV x (s.getV x + nn))

/-- Copy: `V[X] <- V[Y]` (R153). -/
def execCopy (x y : Reg) (s : State) : Result := complete (s.setV x (s.getV y))

/-- Or: `V[X] <- V[X] | V[Y]`; VF is not reset (R154). -/
def execOr (x y : Reg) (s : State) : Result := complete (s.setV x (s.getV x ||| s.getV y))

/-- And: `V[X] <- V[X] & V[Y]` (R155). -/
def execAnd (x y : Reg) (s : State) : Result := complete (s.setV x (s.getV x &&& s.getV y))

/-- Xor: `V[X] <- V[X] ^ V[Y]` (R156). -/
def execXor (x y : Reg) (s : State) : Result := complete (s.setV x (s.getV x ^^^ s.getV y))

/-- Add: the sum mod 256, VF the carry (R160). -/
def execAdd (x y : Reg) (s : State) : Result :=
  complete (s.writeResultThenFlag x (s.getV x + s.getV y) (carryFlag (s.getV x) (s.getV y)))

/-- Sub: `V[X] - V[Y]` mod 256, VF the inverted borrow (R161). -/
def execSub (x y : Reg) (s : State) : Result :=
  complete (s.writeResultThenFlag x (s.getV x - s.getV y) (noBorrowFlag (s.getV x) (s.getV y)))

/-- SubReverse: `V[Y] - V[X]` mod 256, VF the inverted borrow (R163). -/
def execSubReverse (x y : Reg) (s : State) : Result :=
  complete (s.writeResultThenFlag x (s.getV y - s.getV x) (noBorrowFlag (s.getV y) (s.getV x)))

/-- ShiftRight: VF bit 0 of V[Y], V[X] the operand `>> 1`; the source is Y (R162). -/
def execShiftRight (x y : Reg) (s : State) : Result :=
  complete (s.shiftWith shiftRightFlag (fun t => t >>> 1) x y)

/-- ShiftLeft: VF bit 7 of V[Y], V[X] the operand `<< 1` mod 256 (R164). -/
def execShiftLeft (x y : Reg) (s : State) : Result :=
  complete (s.shiftWith shiftLeftFlag (fun t => t <<< 1) x y)

/-- LoadRandomMasked: `V[X] <- rnd & NN`, rnd the step's random input byte (R165). -/
def execLoadRandomMasked (x : Reg) (nn : Byte) (s : State) : Result := complete (s.setV x (s.rnd &&& nn))

end Sys2Proof.Machine
end

