-- ==== Sys2Proof/Machine/ControlFlow.lean ====
section
/-! DEFINITION. The control-flow family (spec/41_control_flow.md). pc already holds the instruction's address plus 2, and
"a target is never checked when it is written" (R120). -/

namespace Sys2Proof.Machine

/-- Return: pc and sp from the return stack, or StackUnderflow at sp = 0 with nothing written (R121). -/
def execReturn (s : State) : Result :=
  match s.pop with
  | some (ra, t) => complete (t.setPc ra)
  | none => raiseError .stackUnderflow s

/-- CallNative: "treated as a no-op with a diagnostic, not a hard failure" (R122). -/
def execCallNative (nnn : Addr) (s : State) : Result := completeWith (.nativeCall nnn) s

/-- Jump: `pc <- zext_16(NNN)` (R123). -/
def execJump (nnn : Addr) (s : State) : Result := complete (s.setPc (zext16 nnn))

/-- Call: the advanced pc pushed, then the jump, or StackOverflow at sp = 16 with nothing written and no jump (R124). -/
def execCall (nnn : Addr) (s : State) : Result :=
  match s.push s.pc with
  | some t => complete (t.setPc (zext16 nnn))
  | none => raiseError .stackOverflow s

/-- JumpWithOffset: `pc <- zext_16(NNN) + zext_16(V[0])`, not masked; the offset register is always V[0] (R125). -/
def execJumpWithOffset (nnn : Addr) (s : State) : Result :=
  complete (s.setPc (zext16 nnn + zext16 (s.getV 0)))

/-- SkipIfEqualImmediate (R127). -/
def execSkipIfEqualImmediate (x : Reg) (nn : Byte) (s : State) : Result :=
  complete (s.skipIf (s.getV x == nn))

/-- SkipIfNotEqualImmediate (R128). -/
def execSkipIfNotEqualImmediate (x : Reg) (nn : Byte) (s : State) : Result :=
  complete (s.skipIf (s.getV x != nn))

/-- SkipIfRegistersEqual (R129). -/
def execSkipIfRegistersEqual (x y : Reg) (s : State) : Result :=
  complete (s.skipIf (s.getV x == s.getV y))

/-- SkipIfRegistersNotEqual (R130). -/
def execSkipIfRegistersNotEqual (x y : Reg) (s : State) : Result :=
  complete (s.skipIf (s.getV x != s.getV y))

end Sys2Proof.Machine
end

