-- ==== Sys2Proof/Machine/Display.lean ====
section
/-! DEFINITION. The display family (spec/43_display.md): ClearDisplay, and DrawSprite with its collision detector. A row
is a row word, column 0 its most significant bit (R181). -/

namespace Sys2Proof.Machine

/-- A sprite row as a row word: its bit 7, the leftmost pixel (R183; log 13), lands at column `x0`, and "sprite bits that
would land past column 63 are discarded, not wrapped" (R184). -/
def spriteRow (x0 : Nat) (b : Byte) : RowWord := (b.setWidth 64 <<< 56) >>> x0

/-- Whether drawing `b` over a row turns a set pixel off (R185). -/
def rowCollides (x0 : Nat) (b : Byte) (row : RowWord) : Bool := row &&& spriteRow x0 b != 0

/-- The rows of a sprite drawn by XOR from display row `row` on, with the collision found so far. "Drawing stops at the
bottom edge" (R184; log 26). -/
def drawRows (x0 row : Nat) : List Byte → Vector RowWord 32 → Bool → Vector RowWord 32 × Bool
  | [], d, c => (d, c)
  | b :: bs, d, c =>
    if h : row < 32 then
      drawRows x0 (row + 1) bs (d.set row (d[row] ^^^ spriteRow x0 b) h) (c || rowCollides x0 b d[row])
    else (d, c)

/-- ClearDisplay: every pixel 0 (R182). -/
def execClearDisplay (s : State) : Result := complete (s.setDisp (Vector.replicate 32 0))

/-- DrawSprite (R184): the whole sprite is in range, or MemOutOfRange with nothing written. The start point is read
before any write and reduced mod 64 and mod 32, all N bytes are read, and VF is written last. -/
def execDrawSprite (x y : Reg) (n : Fin 16) (s : State) : Result :=
  if s.indexInRange n.val then
    let drawn := drawRows ((s.getV x).toNat % 64) ((s.getV y).toNat % 32) (s.bytesAtIndex n.val) s.disp false
    complete ((s.setDisp drawn.1).setV regVF (flagByte drawn.2))
  else raiseError .memOutOfRange s

end Sys2Proof.Machine
end

