-- ==== Sys2Proof/Machine/IndexMemory.lean ====
section
/-! DEFINITION. The index-register and memory-transfer family (spec/44_index_memory.md). No instruction of it changes I as
a side effect of an access, and every access is checked whole before any effect (R200). -/

namespace Sys2Proof.Machine

/-- SetIndex: `I <- zext_16(NNN & 0xFFF)` (R201). -/
def execSetIndex (nnn : Addr) (s : State) : Result := complete (s.setI (zext16 nnn))

/-- AddToIndex: `I <- (I + zext_16(V[X])) mod 2^16`, no flag, no mask (R202). -/
def execAddToIndex (x : Reg) (s : State) : Result := complete (s.setI (s.i + zext16 (s.getV x)))

/-- LoadFontAddress: I is the address of the glyph of V[X]'s low nibble (R203). -/
def execLoadFontAddress (x : Reg) (s : State) : Result := complete (s.setI (glyphAddress (s.getV x)))

/-- StoreBCD: the decimal digits of V[X] at I, I+1, I+2 (R205). -/
def execStoreBCD (x : Reg) (s : State) : Result :=
  if s.indexInRange 3 then complete (s.storeAtIndex (bcdDigits (s.getV x)))
  else raiseError .memOutOfRange s

/-- StoreRegisters: V[0]..V[X] at I..I+X (R208). -/
def execStoreRegisters (x : Reg) (s : State) : Result :=
  if s.indexInRange (x.val + 1) then complete (s.storeAtIndex (s.regsUpTo x))
  else raiseError .memOutOfRange s

/-- LoadRegisters: V[0]..V[X] from I..I+X (R210). -/
def execLoadRegisters (x : Reg) (s : State) : Result :=
  if s.indexInRange (x.val + 1) then complete (s.setRegs (writeRegsFrom s.v 0 (s.bytesAtIndex (x.val + 1))))
  else raiseError .memOutOfRange s

end Sys2Proof.Machine
end

