-- ==== Sys2Proof/Machine/KeysTimers.lean ====
section
/-! DEFINITION. The keypad and timer family (spec/45_timers_keys.md). The step's tick is not an instruction's: it follows
the execution (spec/40_step.md R105). -/

namespace Sys2Proof.Machine

/-- SkipIfKeyPressed: it tests the level of key V[X] (R221). -/
def execSkipIfKeyPressed (x : Reg) (s : State) : Result :=
  match s.keyDown (s.getV x) with
  | some down => complete (s.skipIf down)
  | none => raiseError .keyIndexOutOfRange s

/-- SkipIfKeyNotPressed (R222). -/
def execSkipIfKeyNotPressed (x : Reg) (s : State) : Result :=
  match s.keyDown (s.getV x) with
  | some down => complete (s.skipIf (!down))
  | none => raiseError .keyIndexOutOfRange s

/-- LoadFromDelayTimer: `V[X] <- DT` (R223). -/
def execLoadFromDelayTimer (x : Reg) (s : State) : Result := complete (s.setV x s.dt)

/-- AwaitKey: V[X] takes last_key, which is not cleared; without one pc rolls back by 2, so that the instruction runs
again at the next step (R224). -/
def execAwaitKey (x : Reg) (s : State) : Result :=
  match s.lastKey with
  | some k => complete (s.setV x (BitVec.ofNat 8 k.val))
  | none => complete (s.setPc (s.pc - 2))

/-- LoadDelayTimer: `DT <- V[X]` (R225). -/
def execLoadDelayTimer (x : Reg) (s : State) : Result := complete (s.setDt (s.getV x))

/-- LoadSoundTimer: `ST <- V[X]` (R226). -/
def execLoadSoundTimer (x : Reg) (s : State) : Result := complete (s.setSt (s.getV x))

end Sys2Proof.Machine
end

