-- ==== Sys2Proof/Machine/Cycle.lean ====
section
/-! DEFINITION. One Step event (spec/40_step.md R101 to R107): the fetch check, the fetch, the decode, the execution and
the tick. -/

namespace Sys2Proof.Machine

/-- The execution of what the decoder gives, pc already advanced. A decode failure "is an operation like the others"
(R103): a no-op with the diagnostic UnknownOpcode(w) (spec/60_exceptions.md R256). -/
def execWord (w : Word) (s : State) : Result :=
  match decodeWord w with
  | .ok i => exec i s
  | .error _ => completeWith (.unknownOpcode w) s

/-- The end of a step put after the execution's outcome (R105). -/
def finishStep : Result → Result
  | .next t => .next t.endStep
  | .fault r => .fault r
  | .refused r => .refused r

/-- Step(rnd) (R107): the step with its random input byte, which is any byte (spec/42_alu.md R165). -/
def stepWith (rnd : Byte) (s : State) : Result :=
  let s := s.setRnd rnd
  if s.canFetch then finishStep (execWord s.fetchWord s.advancePc)
  else raiseError .pcOutOfRange s

end Sys2Proof.Machine
end

