-- ==== Sys2Proof/Machine/Step.lean ====
section
/-! DEFINITION. The step of the machine, and how the host places an instruction word for it. -/

namespace Sys2Proof.Machine

/-- One Step event whose random byte is drawn freely: the next free value of `Config.rndByte` (spec/00_scope.md R8,
"one byte per step, drawn freely"; log 4). -/
def step (s : State) : Host.Outcome State Fault Refusal :=
  stepWith (Config.rndByte s.draws) s.nextDraw

/-- `s` with the instruction word stored where the next step fetches it (log 8, log 24). -/
def State.withFetchWord (s : State) (nbits w : Nat) : State :=
  s.atFetchable.placeWord (tableWord nbits w)

end Sys2Proof.Machine
end

