-- ==== Sys2Proof/Machine/Events.lean ====
section
/-! DEFINITION. The host's events beside Step (spec/40_step.md R100, R108 to R111): Construct, KeyRefresh, TimerTick and
Observe, and sequences of them. Each is performed whole, between two steps (R60, R259). -/

namespace Sys2Proof.Machine

/-- The bytes Construct puts in memory: FONT at 0x000, the first 3584 bytes of the image at 0x200, 0x00 elsewhere
(spec/70_reset_and_hazards.md R280, R281). -/
def constructMemory (cfg : Config) (image : List Byte) : Memory :=
  Memory.writeBytes (Memory.writeBytes [] 0 cfg.font.toList) entry (image.take maxImage)

/-- Construct(image), with the machine's parameters: the only reset (R280, R282). Every field beside memory and the
parameters is as after a Construct with no image. -/
def State.construct (cfg : Config) (image : List Byte) : State :=
  { State.reset with mem := constructMemory cfg image, config := cfg }

/-- The lowest k from `k` on, of the `n` bits left, whose bit is 1 (spec/45_timers_keys.md R231). -/
def lowestFrom (m : Word) (k : Nat) : Nat → Option Key
  | 0 => none
  | n + 1 => if m.getLsbD k then some (Fin.ofNat 16 k) else lowestFrom m (k + 1) n

/-- The lowest-numbered key of a mask, or none (R231). -/
def lowestKey (m : Word) : Option Key := lowestFrom m 0 16

/-- KeyRefresh(mask): the keypad state register takes the host's mask, and last_key the lowest key that went 0 -> 1.
"A refresh changes nothing else" (R231). -/
def State.keyRefresh (mask : Word) (s : State) : State :=
  { s with lastKey := lowestKey (mask &&& ~~~s.keys), keys := mask }

/-- TimerTick: one tick, "accepted only when `timer_tick_mode = host_tick`" (spec/40_step.md R100; log 9). -/
def hostTick (s : State) : Result :=
  match s.config.timerTickMode with
  | .hostTick => .next s.tick
  | .perStep => .refused .timerTickNotAccepted

/-- The state of spec/10_state.md R20 as Observe shows it, with memory as its 4096 bytes and the display as the row
words of the display port (R109). -/
structure Observation where
  mem : List Byte
  v : Vector Byte 16
  i : Word
  pc : Word
  stack : Vector Word 16
  sp : Fin 17
  rows : Vector RowWord 32
  dt : Byte
  st : Byte
  keys : Word
  lastKey : Option Key
  deriving DecidableEq, Repr

/-- `disp[row][col]`: column 0 is the most significant bit of the row word (spec/43_display.md R181). -/
def State.pixel (s : State) (row : Fin 32) (col : Fin 64) : Bool := (s.disp.get row).getMsbD col.val

/-- The display port: `row_word[r]`, read-only (R181). -/
def State.displayPort (s : State) : Vector RowWord 32 := s.disp

/-- Observe: it "reads every piece of state" of R20 (R109). -/
def State.observe (s : State) : Observation where
  mem := Memory.readBytes s.mem 0 memSize
  v := s.v
  i := s.i
  pc := s.pc
  stack := s.stack
  sp := s.sp
  rows := s.displayPort
  dt := s.dt
  st := s.st
  keys := s.keys
  lastKey := s.lastKey

/-- The events of R100. -/
inductive Event where
  | construct (image : List Byte)
  | step (rnd : Byte)
  | keyRefresh (mask : Word)
  | timerTick
  | observe
  deriving DecidableEq, Repr

/-- One event. Construct makes a fresh instance with the same parameters, and only the model's counter of random bytes
goes on (log 10). Observe "changes nothing" (R109). -/
def handle (e : Event) (s : State) : Result :=
  match e with
  | .construct image => .next { State.construct s.config image with draws := s.draws }
  | .step rnd => stepWith rnd s
  | .keyRefresh mask => .next (s.keyRefresh mask)
  | .timerTick => hostTick s
  | .observe => .next s

/-- What a run is observed by: "that state together with the result of every step", in order (R111). -/
structure RunEnd where
  results : List StepResult
  state : State
  deriving DecidableEq, Repr

/-- Whether an event is a Step, which alone returns a result (R100, R106). -/
def Event.isStep : Event → Bool
  | .step _ => true
  | _ => false

/-- What an event that left the state `t` adds to the observation: a Step's result, with its diagnostic (R106, R111). -/
def Event.results (e : Event) (t : State) : List StepResult := if e.isStep then [t.result] else []

/-- The observation of a run whose earlier steps returned `rs`, from that of the rest of the run. -/
def prependResults (rs : List StepResult) : Host.Outcome RunEnd Fault Refusal → Host.Outcome RunEnd Fault Refusal
  | .next r => .next { r with results := rs ++ r.results }
  | .fault f => .fault f
  | .refused r => .refused r

/-- A finite sequence of events, and its observation: the end state and every step's result (R111; log 8). An erring step
does not end it: "the block accepts further steps" (spec/60_exceptions.md R250). It stops only at an event the block does
not accept (R100; log 9). -/
def handleAll : List Event → State → Host.Outcome RunEnd Fault Refusal
  | [], s => .next { results := [], state := s }
  | e :: es, s =>
    match handle e s with
    | .next t => prependResults (e.results t) (handleAll es t)
    | .fault f => .fault f
    | .refused r => .refused r

/-- A run: "a finite sequence of host events from a Construct" (R111), on the machine with the parameters `cfg`. -/
def hostRun (cfg : Config) (image : List Byte) (es : List Event) : Host.Outcome RunEnd Fault Refusal :=
  handleAll es (State.construct cfg image)

/-- A frame of the host loop: one KeyRefresh, then a Step for each random byte (R110). -/
def frame (mask : Word) (rnds : List Byte) : List Event := .keyRefresh mask :: rnds.map .step

/-- run(n), n the number of random bytes: n Steps in sequence, stopping at the first ERR. The results of the steps are
listed in order (R108). No step answers a fault or a refusal, so the last arm is never taken. -/
def run : List Byte → State → RunEnd
  | [], s => { results := [], state := s }
  | rnd :: rnds, s =>
    match stepWith rnd s with
    | .next t =>
      if t.result.isOk then { results := t.result :: (run rnds t).results, state := (run rnds t).state }
      else { results := [t.result], state := t }
    | _ => { results := [], state := s }

/-- What run(n) returns: the ERR it stopped at, or none for OK (R108). -/
def RunEnd.error (r : RunEnd) : Option ErrorKind :=
  match r.results.getLast? with
  | some (.err k) => some k
  | _ => none

end Sys2Proof.Machine
end

