-- ==== Sys2Proof/Safety.lean ====
section
/-! DEFINITION. The terms in which claims are made: a safe run, the parts of the state a frame speaks of, how an
instruction completes or raises, and the invariant of the machine. -/

namespace Sys2Proof.Machine

/-- No step has returned an error since Construct: the premise of every claim about a program
(spec/60_exceptions.md R257). -/
abbrev State.safe (s : State) : Prop := s.faulted = none

/-- The parts of State that a frame speaks of. -/
inductive Part where
  | mem | v | i | pc | stack | sp | disp | dt | st | keys | lastKey
  | config | rnd | draws | result | faulted
  deriving DecidableEq, Repr

/-- The part of `t` is that of `s`; memory is compared byte by byte, at every address. -/
def SamePart (s t : State) : Part → Prop
  | .mem => ∀ a : Nat, t.readMem a = s.readMem a
  | .v => t.v = s.v
  | .i => t.i = s.i
  | .pc => t.pc = s.pc
  | .stack => t.stack = s.stack
  | .sp => t.sp = s.sp
  | .disp => t.disp = s.disp
  | .dt => t.dt = s.dt
  | .st => t.st = s.st
  | .keys => t.keys = s.keys
  | .lastKey => t.lastKey = s.lastKey
  | .config => t.config = s.config
  | .rnd => t.rnd = s.rnd
  | .draws => t.draws = s.draws
  | .result => t.result = s.result
  | .faulted => t.faulted = s.faulted

/-- Every part of the state but those listed is unchanged. -/
def SameBut (changed : List Part) (s t : State) : Prop := ∀ p : Part, p ∉ changed → SamePart s t p

/-- Every general register but those named is unchanged. -/
def SameRegsBut (changed : Reg → Prop) (s t : State) : Prop := ∀ r : Reg, ¬ changed r → t.getV r = s.getV r

/-- The instruction answers a next state with the result OK and the diagnostic `d`, in which `post` holds and nothing
beside the step's result and the parts `changed` differs (spec/40_step.md R106). -/
def Completes (i : Instr) (s : State) (d : Option Diagnostic) (changed : List Part) (post : State → Prop) : Prop :=
  ∃ t, exec i s = .next t ∧ t.result = .ok d ∧ SameBut (.result :: changed) s t ∧ post t

/-- The instruction answers a next state with the result ERR(k), in which nothing beside the step's result and the record
`faulted` differs (spec/40_step.md R104, spec/60_exceptions.md R250, R257). -/
def Raises (i : Instr) (s : State) (k : ErrorKind) : Prop :=
  ∃ t, exec i s = .next t ∧ t.result = .err k ∧ t.faulted = some (s.faulted.getD k) ∧ SameBut [.result, .faulted] s t

/-- The step answers a next state in which `post` holds and nothing beside the parts `changed` differs. -/
def Steps (rnd : Byte) (s : State) (changed : List Part) (post : State → Prop) : Prop :=
  ∃ t, stepWith rnd s = .next t ∧ SameBut changed s t ∧ post t

/-- Whether DrawSprite(X, Y, N) has a set sprite bit at a display position: the bit is that of sprite row
`row - y0` and sprite column `col - x0`, bit 7 leftmost, and positions off the display do not exist
(spec/43_display.md R183, R184). -/
def spriteLights (s : State) (x y : Reg) (n : Fin 16) (row : Fin 32) (col : Fin 64) : Bool :=
  let x0 := (s.getV x).toNat % 64
  let y0 := (s.getV y).toNat % 32
  decide (y0 ≤ row.val ∧ row.val - y0 < n.val ∧ x0 ≤ col.val ∧ col.val - x0 < 8) &&
    (s.readMem (s.i.toNat + (row.val - y0))).getLsbD (7 - (col.val - x0))

/-- One timer after a tick: it counts down and saturates at 0 (spec/45_timers_keys.md R230). -/
def afterTick (b : Byte) : Byte := BitVec.ofNat 8 (b.toNat - 1)

/-- One timer at the end of an OK step that left it at `b`: ticked in `per_step` mode alone (R230). -/
def atStepEnd (s : State) (b : Byte) : Byte :=
  if s.config.timerTickMode = .perStep then afterTick b else b

/-- What holds in every state a run reaches: memory in its canonical form, pc at most 0x10FE, and every stack entry at
most 0x1000 (spec/10_state.md R26; sp <= 16 of R28 is sp's type). -/
structure State.Inv (s : State) : Prop where
  mem_wf : Memory.wf s.mem = true
  pc_le : s.pc.toNat ≤ 0x10FE
  stack_le : ∀ k : Fin 16, (s.stack.get k).toNat ≤ 0x1000

end Sys2Proof.Machine
end

