-- ==== Sys2Proof/Certificates/Slice0/Obligations.lean ====
section
/-! DEFINITION. The statements for the provers, each from the rules of spec/ it names. "D<n>" is a decision of
spec/92_eei_decisions.md that a rule records as the spec's own choice; "log n" is notes/assumptions/n.md. -/

open Sys2Proof Sys2Proof.Machine

/-! ## Encoding -/

/-- Decode and encode agree: the word of every well-formed instruction, with every operand value, decodes to it
(30_encoding.md R73, R76, R82; the pairing of selectors and operations is log 14). -/
def Obligations.DecodeOfEncodeGivesTheInstruction : Prop :=
  ∀ i : Instr, i.wellFormed = true → decodeWord (encode i) = .ok i

/-- What decodes is well-formed, and its word is the one decoded, but for the ignored low nibble of families 5 and 9
(R78; D24, log 20). -/
def Obligations.EncodeOfDecodeGivesTheWord : Prop :=
  ∀ (w : Word) (i : Instr), decodeWord w = .ok i →
    i.wellFormed = true ∧
    encode i = if w.extractLsb' 12 4 = 0x5 ∨ w.extractLsb' 12 4 = 0x9 then w &&& 0xFFF0 else w

/-- R77 whole: family 0 is decoded on the full word, and the full-word matches take priority. -/
def Obligations.FamilyZeroDecodesOnTheFullWord : Prop :=
  decodeWord 0x00E0 = .ok .clearDisplay ∧
  decodeWord 0x00EE = .ok .ret ∧
  ∀ w : Word, w.extractLsb' 12 4 = 0x0 → w ≠ 0x00E0 → w ≠ 0x00EE →
    decodeWord w = .ok (.callNative (w.extractLsb' 0 12))

/-- Families E and F are decoded on the low byte, and every other low byte is a decode failure that carries the word
(30_encoding.md R80, R81; X is bits 11..8, R72). The pairing of the low bytes of family F with the operations is the
spec's own inference (R76, log 14). -/
def Obligations.FamiliesEAndFDecodeOnTheLowByte : Prop :=
  ∀ (w : Word) (x : Reg), x.val = (w.extractLsb' 8 4).toNat →
    (w.extractLsb' 12 4 = 0xE →
      (w.extractLsb' 0 8 = 0x9E → decodeWord w = .ok (.skipIfKeyPressed x)) ∧
      (w.extractLsb' 0 8 = 0xA1 → decodeWord w = .ok (.skipIfKeyNotPressed x)) ∧
      (w.extractLsb' 0 8 ∉ [(0x9E : Byte), 0xA1] → decodeWord w = .error (.unknownOpcode w))) ∧
    (w.extractLsb' 12 4 = 0xF →
      (w.extractLsb' 0 8 = 0x07 → decodeWord w = .ok (.loadFromDelayTimer x)) ∧
      (w.extractLsb' 0 8 = 0x0A → decodeWord w = .ok (.awaitKey x)) ∧
      (w.extractLsb' 0 8 = 0x15 → decodeWord w = .ok (.loadDelayTimer x)) ∧
      (w.extractLsb' 0 8 = 0x18 → decodeWord w = .ok (.loadSoundTimer x)) ∧
      (w.extractLsb' 0 8 = 0x1E → decodeWord w = .ok (.addToIndex x)) ∧
      (w.extractLsb' 0 8 = 0x29 → decodeWord w = .ok (.loadFontAddress x)) ∧
      (w.extractLsb' 0 8 = 0x33 → decodeWord w = .ok (.storeBCD x)) ∧
      (w.extractLsb' 0 8 = 0x55 → decodeWord w = .ok (.storeRegisters x)) ∧
      (w.extractLsb' 0 8 = 0x65 → decodeWord w = .ok (.loadRegisters x)) ∧
      (w.extractLsb' 0 8 ∉ [(0x07 : Byte), 0x0A, 0x15, 0x18, 0x1E, 0x29, 0x33, 0x55, 0x65] →
        decodeWord w = .error (.unknownOpcode w)))

/-- The decode failures are exactly the words of R79, R80 and R81 that select no operation (R90), and each carries its
word. That family 8 fails on the low nibble 8 is the spec's own choice (D25, log 20). -/
def Obligations.DecodeFailsExactlyOnTheUnassignedWords : Prop :=
  ∀ w : Word,
    (decodeWord w = .error (.unknownOpcode w) ↔
      (w.extractLsb' 12 4 = 0x8 ∧ w.extractLsb' 0 4 ∉ [(0x0 : BitVec 4), 0x1, 0x2, 0x3, 0x4, 0x5, 0x6, 0x7, 0xE]) ∨
      (w.extractLsb' 12 4 = 0xE ∧ w.extractLsb' 0 8 ∉ [(0x9E : Byte), 0xA1]) ∨
      (w.extractLsb' 12 4 = 0xF ∧
        w.extractLsb' 0 8 ∉ [(0x07 : Byte), 0x0A, 0x15, 0x18, 0x1E, 0x29, 0x33, 0x55, 0x65])) ∧
    ∀ e : DecodeError, decodeWord w = .error e → e = .unknownOpcode w

/-- Words written out from the encodings of 30_encoding.md decode to the instructions they stand for
(95_test_vectors.md DEC2 to DEC27). That 0x512F decodes with its low nibble ignored is the spec's own choice D24, that
0x8AB8 does not decode is D25 (log 20), and that 0x8AB6, 0xE3A1 and 0xF355 stand for these operations is the pairing by
position, the spec's own inference (R76, log 14). -/
def Obligations.SampleWordsDecode : Prop :=
  decodeWord 0x00E0 = .ok .clearDisplay ∧ decodeWord 0x1ABC = .ok (.jump 0xABC) ∧
  decodeWord 0x3A2B = .ok (.skipIfEqualImmediate 0xA 0x2B) ∧ decodeWord 0x512F = .ok (.skipIfRegistersEqual 1 2) ∧
  decodeWord 0x8AB6 = .ok (.shiftRight 0xA 0xB) ∧ decodeWord 0xA123 = .ok (.setIndex 0x123) ∧
  decodeWord 0xD12F = .ok (.drawSprite 1 2 15) ∧ decodeWord 0xE3A1 = .ok (.skipIfKeyNotPressed 3) ∧
  decodeWord 0xF355 = .ok (.storeRegisters 3) ∧ decodeWord 0x8AB8 = .error (.unknownOpcode 0x8AB8)

/-! ## Construction and the invariant -/

/-- Construct(image) sets every piece of state, for every FONT and every image, whatever its length
(70_reset_and_hazards.md R280, 10_state.md R35), and the event Construct answers that state, with the parameters and the
model's counter of random bytes kept (log 10). That last_key is none is the spec's own choice D18 (log 17), that 0x050 to
0x1FF is zero D36 and that an image is cut to 3584 bytes D23 (log 21). -/
def Obligations.ConstructSetsEveryPieceOfState : Prop :=
  ∀ (cfg : Config) (image : List Byte),
    let t := State.construct cfg image
    let len := min image.length 3584
    (∀ k : Fin 80, t.readMem k.val = cfg.font.get k) ∧
    (∀ k : Nat, k < len → t.readMem (0x200 + k) = image.getD k 0) ∧
    (∀ a : Nat, 0x50 ≤ a → a < 4096 → (a < 0x200 ∨ 0x200 + len ≤ a) → t.readMem a = 0) ∧
    (∀ r : Reg, t.getV r = 0) ∧ t.i = 0 ∧ t.pc = 0x200 ∧ (∀ k : Fin 16, t.stack.get k = 0) ∧ t.sp.val = 0 ∧
    (∀ (row : Fin 32) (col : Fin 64), t.pixel row col = false) ∧ t.dt = 0 ∧ t.st = 0 ∧ t.keys = 0 ∧
    t.lastKey = none ∧ t.faulted = none ∧ t.config = cfg ∧
    ∀ s : State, s.config = cfg → handle (.construct image) s = .next { t with draws := s.draws }

/-- The state after reset is Construct without an image, with the parameters at the defaults of 00_scope.md R8: that
the machine after reset has the defaults is the model's choice (log 3). The default FONT is the table of 20_memory.md R57,
which the spec takes from general knowledge (D12, log 2). -/
def Obligations.ResetIsConstructWithDefaults : Prop :=
  State.reset = State.construct Config.default [] ∧
  Config.default.timerTickMode = .perStep ∧ Config.default.keyIndexPolicy = .fault ∧
  Config.default.shiftOperandReading = .sequential ∧
  Config.default.font.toList =
    [0xF0, 0x90, 0x90, 0x90, 0xF0] ++ [0x20, 0x60, 0x20, 0x20, 0x70] ++ [0xF0, 0x10, 0xF0, 0x80, 0xF0] ++
    [0xF0, 0x10, 0xF0, 0x10, 0xF0] ++ [0x90, 0x90, 0xF0, 0x10, 0x10] ++ [0xF0, 0x80, 0xF0, 0x10, 0xF0] ++
    [0xF0, 0x80, 0xF0, 0x90, 0xF0] ++ [0xF0, 0x10, 0x20, 0x40, 0x40] ++ [0xF0, 0x90, 0xF0, 0x90, 0xF0] ++
    [0xF0, 0x90, 0xF0, 0x10, 0xF0] ++ [0xF0, 0x90, 0xF0, 0x90, 0x90] ++ [0xE0, 0x90, 0xE0, 0x90, 0xE0] ++
    [0xF0, 0x80, 0x80, 0x80, 0xF0] ++ [0xE0, 0x90, 0x90, 0x90, 0xE0] ++ [0xF0, 0x80, 0xF0, 0x80, 0xF0] ++
    [0xF0, 0x80, 0xF0, 0x80, 0x80]

/-- The invariant holds after reset. -/
def Obligations.ResetMeetsTheInvariant : Prop := State.reset.Inv

/-- Every step keeps the invariant: memory in canonical form, pc at most 0x10FE and stack entries at most 0x1000
(10_state.md R26, a derivation of the spec; R50). -/
def Obligations.StepKeepsTheInvariant : Prop :=
  ∀ s t : State, s.Inv → step s = .next t → t.Inv

/-- Every host event keeps the invariant: Construct with any image, Step with any random byte, KeyRefresh, TimerTick
and Observe (40_step.md R100). -/
def Obligations.HostEventsKeepTheInvariant : Prop :=
  ∀ (e : Event) (s t : State), s.Inv → handle e s = .next t → t.Inv

/-! ## Memory -/

/-- MemWrite changes exactly one byte (20_memory.md R52) and keeps the canonical form at every address that exists. -/
def Obligations.MemWriteChangesOneByte : Prop :=
  ∀ (m : Memory) (a : Nat) (b : Byte),
    Memory.read (Memory.write m a b) a = b ∧
    (∀ c : Nat, c ≠ a → Memory.read (Memory.write m a b) c = Memory.read m c) ∧
    (Memory.wf m = true → a < 4096 → Memory.wf (Memory.write m a b) = true)

/-- Memories in canonical form that read alike at every address are the same data (the model's form of memory, log 7). -/
def Obligations.CanonicalMemoriesAreEqualData : Prop :=
  ∀ m m' : Memory, Memory.wf m = true → Memory.wf m' = true →
    (∀ a : Nat, a < 4096 → Memory.read m a = Memory.read m' a) → m = m'

/-- The fetch is big-endian: the byte at the lower address holds bits 15..8 (20_memory.md R53, 40_step.md R102). -/
def Obligations.FetchIsBigEndian : Prop :=
  ∀ s : State, s.fetchWord =
    ((s.readMem s.pc.toNat).setWidth 16 <<< 8) ||| (s.readMem (s.pc.toNat + 1)).setWidth 16

/-- The fetch is coherent with StoreRegisters: the word at two bytes it stored is those bytes (20_memory.md R63, D33,
log 21). -/
def Obligations.FetchSeesStoredRegisters : Prop :=
  ∀ (x : Reg) (s t : State) (k : Nat) (p : Word), exec (.storeRegisters x) s = .next t → t.result = .ok none →
    ∀ h : k < x.val, p.toNat = s.i.toNat + k →
      (t.setPc p).fetchWord = s.getV ⟨k, by omega⟩ ++ s.getV ⟨k + 1, by omega⟩

/-! ## The step -/

/-- A step runs the decoded instruction: with the fetch inside memory, step is exec of the decoded instruction on the
state with the random byte taken and pc advanced by 2, and after it one timer tick iff the result is OK and the mode is
`per_step` (40_step.md R107; the free random byte is log 4). -/
def Obligations.StepRunsTheDecodedInstruction : Prop :=
  ∀ (s : State) (i : Instr), s.pc.toNat ≤ 0xFFE → decodeWord s.fetchWord = .ok i →
    (∀ (rnd : Byte) (t : State), exec i { s with rnd := rnd, pc := s.pc + 2 } = .next t →
      stepWith rnd s = .next (if t.result.isOk = true ∧ t.config.timerTickMode = .perStep
        then { t with dt := afterTick t.dt, st := afterTick t.st } else t)) ∧
    (∀ t : State,
      exec i { s with rnd := Config.rndByte s.draws, draws := s.draws + 1, pc := s.pc + 2 } = .next t →
      step s = .next (if t.result.isOk = true ∧ t.config.timerTickMode = .perStep
        then { t with dt := afterTick t.dt, st := afterTick t.st } else t))

/-- A decode failure is a no-op with the diagnostic UnknownOpcode(w), on which the timers tick as on every OK step
(60_exceptions.md R256, 30_encoding.md R90; the form of the diagnostic is D26). -/
def Obligations.DecodeFailureIsANoOpStep : Prop :=
  ∀ (rnd : Byte) (s : State) (e : DecodeError), s.pc.toNat ≤ 0xFFE → decodeWord s.fetchWord = .error e →
    Steps rnd s [.pc, .dt, .st, .rnd, .result] (fun t =>
      t.result = .ok (some (.unknownOpcode s.fetchWord)) ∧ t.pc = s.pc + 2 ∧
      t.dt = atStepEnd s s.dt ∧ t.st = atStepEnd s s.st)

/-- A fetch outside memory changes no state at all, and the next step does the same (40_step.md R101, the spec's own
choice D2, log 16). The record `faulted` is the model's bookkeeping of R257 (log 5). -/
def Obligations.FetchOutsideMemoryChangesNothing : Prop :=
  ∀ (rnd : Byte) (s : State), 0xFFE < s.pc.toNat →
    Steps rnd s [.rnd, .result, .faulted] (fun t =>
      t.result = .err .pcOutOfRange ∧ t.faulted = some (s.faulted.getD .pcOutOfRange) ∧
      ∀ rnd' : Byte, Steps rnd' t [.rnd] (fun u => u.result = .err .pcOutOfRange))

/-- Every step ends: from every state, with every random byte, it answers a next state (40_step.md R112). That a step
that errs answers a next state, and is no stop, is the model's choice (log 5). -/
def Obligations.EveryStepAnswersANextState : Prop :=
  ∀ (rnd : Byte) (s : State), ∃ t, stepWith rnd s = .next t

/-- A step that errs writes nothing beyond the fetch's pc increment, and no timer ticks on it (40_step.md R104,
60_exceptions.md R250, the spec's own choice D8, log 16; the record `faulted` is log 5). -/
def Obligations.ErringStepChangesOnlyPc : Prop :=
  ∀ (rnd : Byte) (s t : State) (k : ErrorKind), stepWith rnd s = .next t → t.result = .err k →
    SameBut [.pc, .rnd, .result, .faulted] s t ∧
    (k = .pcOutOfRange → t.pc = s.pc) ∧ (k ≠ .pcOutOfRange → t.pc = s.pc + 2)

/-- Which instructions raise which errors, and exactly when (60_exceptions.md R251 to R255, R258; the conditions are the
spec's own choices D6, D7, D9, D10, D16, log 16, log 17). -/
def Obligations.InstructionsRaiseExactlyTheNamedErrors : Prop :=
  ∀ (i : Instr) (s t : State) (k : ErrorKind), exec i s = .next t →
    (t.result = .err k ↔
      (k = .stackOverflow ∧ s.sp.val = 16 ∧ ∃ nnn, i = .call nnn) ∨
      (k = .stackUnderflow ∧ s.sp.val = 0 ∧ i = .ret) ∨
      (k = .memOutOfRange ∧
        ((∃ x y n, i = .drawSprite x y n ∧ 0 < n.val ∧ 0xFFF < s.i.toNat + n.val - 1) ∨
         (∃ x, i = .storeBCD x ∧ 0xFFF < s.i.toNat + 2) ∨
         (∃ x, (i = .storeRegisters x ∨ i = .loadRegisters x) ∧ 0xFFF < s.i.toNat + x.val))) ∨
      (k = .keyIndexOutOfRange ∧ s.config.keyIndexPolicy = .fault ∧
        ∃ x, (i = .skipIfKeyPressed x ∨ i = .skipIfKeyNotPressed x) ∧ 0xF < (s.getV x).toNat))

/-- The record `faulted` is the first error any step returned, and no step clears it (60_exceptions.md R257, the model's
bookkeeping, D27, log 5). -/
def Obligations.FaultedKeepsTheFirstError : Prop :=
  ∀ (rnd : Byte) (s t : State), stepWith rnd s = .next t →
    (∀ k, s.faulted = some k → t.faulted = some k) ∧
    (s.faulted = none → ∀ k, (t.faulted = some k ↔ t.result = .err k))

/-! ## Which instructions write which state -/

/-- Only Call writes the stack, and only Call and Return move sp (10_state.md R27, R28). -/
def Obligations.OnlyCallAndReturnMoveTheStack : Prop :=
  ∀ (i : Instr) (s t : State), exec i s = .next t →
    ((∀ nnn, i ≠ .call nnn) → t.stack = s.stack) ∧
    ((∀ nnn, i ≠ .call nnn) → i ≠ .ret → t.sp = s.sp)

/-- Only StoreBCD and StoreRegisters write memory (20_memory.md R51), only ClearDisplay and DrawSprite the display
(43_display.md R180), only SetIndex, AddToIndex and LoadFontAddress I (10_state.md R24), and within an instruction only
LoadDelayTimer DT and LoadSoundTimer ST (10_state.md R30). -/
def Obligations.MemoryDisplayIndexAndTimersHaveOnlyTheirWriters : Prop :=
  ∀ (i : Instr) (s t : State), exec i s = .next t →
    ((∀ x, i ≠ .storeBCD x ∧ i ≠ .storeRegisters x) → ∀ a : Nat, t.readMem a = s.readMem a) ∧
    (i ≠ .clearDisplay → (∀ x y n, i ≠ .drawSprite x y n) → t.disp = s.disp) ∧
    ((∀ nnn, i ≠ .setIndex nnn) → (∀ x, i ≠ .addToIndex x ∧ i ≠ .loadFontAddress x) → t.i = s.i) ∧
    ((∀ x, i ≠ .loadDelayTimer x) → t.dt = s.dt) ∧
    ((∀ x, i ≠ .loadSoundTimer x) → t.st = s.st)

/-- No step writes the keypad state register: `keys` and `last_key` change only at a key refresh (10_state.md R31, R32).
No step writes the parameters, which are configuration (R20; log 1). -/
def Obligations.NoStepWritesTheKeypadOrTheParameters : Prop :=
  ∀ (rnd : Byte) (s t : State), stepWith rnd s = .next t →
    t.keys = s.keys ∧ t.lastKey = s.lastKey ∧ t.config = s.config

/-- VF changes only in the six instructions that write it as a flag, or where it is the destination V[X], or in
LoadRegisters with X = 0xF (10_state.md R22). -/
def Obligations.FlagRegisterHasOnlyItsWriters : Prop :=
  ∀ (i : Instr) (s t : State), exec i s = .next t →
    t.getV 0xF = s.getV 0xF ∨
    (∃ x y, i = .add x y ∨ i = .sub x y ∨ i = .shiftRight x y ∨ i = .subReverse x y ∨ i = .shiftLeft x y) ∨
    (∃ x y n, i = .drawSprite x y n) ∨
    (∃ nn, i = .loadImmediate 0xF nn ∨ i = .addImmediate 0xF nn ∨ i = .loadRandomMasked 0xF nn) ∨
    (∃ y, i = .copy 0xF y ∨ i = .or 0xF y ∨ i = .and 0xF y ∨ i = .xor 0xF y) ∨
    i = .loadFromDelayTimer 0xF ∨ i = .awaitKey 0xF ∨ i = .loadRegisters 0xF

/-! ## What nothing can observe -/

/-- No instruction reads ST (10_state.md R30): a step from a state with another ST ends in the same state but for ST. -/
def Obligations.NoStepObservesTheSoundTimer : Prop :=
  ∀ (rnd : Byte) (s t : State) (b : Byte), stepWith rnd s = .next t →
    ∃ c : Byte, stepWith rnd { s with st := b } = .next { t with st := c }

/-- "An entry at index >= sp is stale. No instruction can observe it" (10_state.md R27, the spec's own choice D38, log 11):
a step from a state with other stale entries ends in the same state but for stale entries. -/
def Obligations.NoStepObservesStaleStackEntries : Prop :=
  ∀ (rnd : Byte) (s t : State) (stk : Vector Word 16),
    (∀ k : Fin 16, k.val < s.sp.val → stk.get k = s.stack.get k) → stepWith rnd s = .next t →
    ∃ stk' : Vector Word 16, stepWith rnd { s with stack := stk } = .next { t with stack := stk' } ∧
      ∀ k : Fin 16, k.val < t.sp.val → stk'.get k = t.stack.get k

/-! ## Control flow -/

/-- Return takes pc from the entry below sp, which is not cleared, and at sp = 0 raises StackUnderflow with nothing
written (41_control_flow.md R121; the error state and the stale entry are the spec's own choices D7, D38). -/
def Obligations.ReturnPopsTheReturnAddress : Prop :=
  ∀ s : State,
    (∀ k : Fin 16, s.sp.val = k.val + 1 →
      Completes .ret s none [.pc, .sp] (fun t => t.pc = s.stack.get k ∧ t.sp.val = k.val)) ∧
    (s.sp.val = 0 → Raises .ret s .stackUnderflow)

/-- Call pushes the advanced pc and jumps, and at sp = 16 raises StackOverflow with nothing written and no jump
(41_control_flow.md R124; the threshold and the error state are the spec's own choices D6, D39). -/
def Obligations.CallPushesTheReturnAddress : Prop :=
  ∀ (nnn : Addr) (s : State),
    (∀ k : Fin 16, s.sp.val = k.val →
      Completes (.call nnn) s none [.pc, .sp, .stack] (fun t =>
        t.pc.toNat = nnn.toNat ∧ t.sp.val = k.val + 1 ∧
        t.stack.get k = s.pc ∧ ∀ j : Fin 16, j ≠ k → t.stack.get j = s.stack.get j)) ∧
    (s.sp.val = 16 → Raises (.call nnn) s .stackOverflow)

/-- Jump and JumpWithOffset write pc, unmasked, and nothing else; the offset register is V[0] (41_control_flow.md R123,
R125; no alignment and no mask are the spec's own choices D3, D4, log 15). -/
def Obligations.JumpsSetTheProgramCounter : Prop :=
  ∀ (nnn : Addr) (s : State),
    Completes (.jump nnn) s none [.pc] (fun t => t.pc.toNat = nnn.toNat) ∧
    Completes (.jumpWithOffset nnn) s none [.pc] (fun t => t.pc.toNat = nnn.toNat + (s.getV 0).toNat)

/-- R122 whole: every family-0 word but two is CallNative, and it changes no state and carries the diagnostic. -/
def Obligations.CallNativeIsANoOpWithADiagnostic : Prop :=
  ∀ nnn : Addr,
    (nnn ≠ 0x0E0 → nnn ≠ 0x0EE → decodeWord (0x0#4 ++ nnn) = .ok (.callNative nnn)) ∧
    (∀ s : State, Completes (.callNative nnn) s (some (.nativeCall nnn)) [] (fun _ => True)) ∧
    ∀ (rnd : Byte) (s : State), nnn ≠ 0x0E0 → nnn ≠ 0x0EE → s.pc.toNat ≤ 0xFFE → s.fetchWord = 0x0#4 ++ nnn →
      Steps rnd s [.pc, .dt, .st, .rnd, .result] (fun t =>
        t.result = .ok (some (.nativeCall nnn)) ∧ t.pc = s.pc + 2 ∧
        t.dt = atStepEnd s s.dt ∧ t.st = atStepEnd s s.st)

/-- R127 and R128 whole: the skips that compare with an immediate, with their encodings. -/
def Obligations.SkipsOnAnImmediate : Prop :=
  ∀ (x : Reg) (nn : Byte),
    decodeWord (formatXNN 0x3 x nn) = .ok (.skipIfEqualImmediate x nn) ∧
    decodeWord (formatXNN 0x4 x nn) = .ok (.skipIfNotEqualImmediate x nn) ∧
    ∀ s : State,
      Completes (.skipIfEqualImmediate x nn) s none [.pc] (fun t =>
        (s.getV x = nn → t.pc = s.pc + 2) ∧ (s.getV x ≠ nn → t.pc = s.pc)) ∧
      Completes (.skipIfNotEqualImmediate x nn) s none [.pc] (fun t =>
        (s.getV x ≠ nn → t.pc = s.pc + 2) ∧ (s.getV x = nn → t.pc = s.pc))

/-- The skips that compare two registers, whatever the low nibble of their word (41_control_flow.md R129, R130; that the
nibble is ignored is the spec's own choice D24, log 20). -/
def Obligations.SkipsOnTwoRegisters : Prop :=
  ∀ (x y : Reg),
    (∀ n : BitVec 4, decodeWord (formatXYN 0x5 x y n) = .ok (.skipIfRegistersEqual x y) ∧
      decodeWord (formatXYN 0x9 x y n) = .ok (.skipIfRegistersNotEqual x y)) ∧
    ∀ s : State,
      Completes (.skipIfRegistersEqual x y) s none [.pc] (fun t =>
        (s.getV x = s.getV y → t.pc = s.pc + 2) ∧ (s.getV x ≠ s.getV y → t.pc = s.pc)) ∧
      Completes (.skipIfRegistersNotEqual x y) s none [.pc] (fun t =>
        (s.getV x ≠ s.getV y → t.pc = s.pc + 2) ∧ (s.getV x = s.getV y → t.pc = s.pc))

/-! ## ALU -/

/-- R151 and R152 whole: the immediate load and the immediate add mod 256, which writes no flag. -/
def Obligations.ImmediateLoadAndAdd : Prop :=
  ∀ (x : Reg) (nn : Byte),
    decodeWord (formatXNN 0x6 x nn) = .ok (.loadImmediate x nn) ∧
    decodeWord (formatXNN 0x7 x nn) = .ok (.addImmediate x nn) ∧
    ∀ s : State,
      Completes (.loadImmediate x nn) s none [.v] (fun t => t.getV x = nn ∧ SameRegsBut (· = x) s t) ∧
      Completes (.addImmediate x nn) s none [.v] (fun t =>
        (t.getV x).toNat = ((s.getV x).toNat + nn.toNat) % 256 ∧ SameRegsBut (· = x) s t)

/-- Copy, Or, And and Xor, bit by bit; VF is not reset (42_alu.md R153 to R156). That the words 8XY0 to 8XY3 are these
operations is the pairing by position, the spec's own inference (R76, log 14). -/
def Obligations.CopyAndBitwiseLogic : Prop :=
  ∀ (x y : Reg),
    decodeWord (formatXYN 0x8 x y 0x0) = .ok (.copy x y) ∧ decodeWord (formatXYN 0x8 x y 0x1) = .ok (.or x y) ∧
    decodeWord (formatXYN 0x8 x y 0x2) = .ok (.and x y) ∧ decodeWord (formatXYN 0x8 x y 0x3) = .ok (.xor x y) ∧
    ∀ s : State,
      Completes (.copy x y) s none [.v] (fun t => t.getV x = s.getV y ∧ SameRegsBut (· = x) s t) ∧
      Completes (.or x y) s none [.v] (fun t => SameRegsBut (· = x) s t ∧
        ∀ k, (t.getV x).getLsbD k = ((s.getV x).getLsbD k || (s.getV y).getLsbD k)) ∧
      Completes (.and x y) s none [.v] (fun t => SameRegsBut (· = x) s t ∧
        ∀ k, (t.getV x).getLsbD k = ((s.getV x).getLsbD k && (s.getV y).getLsbD k)) ∧
      Completes (.xor x y) s none [.v] (fun t => SameRegsBut (· = x) s t ∧
        ∀ k, (t.getV x).getLsbD k = ((s.getV x).getLsbD k ^^ (s.getV y).getLsbD k))

/-- The sum mod 256 in V[X] and the carry in VF (42_alu.md R157, R160). That the flag wins where X is 0xF is the write
order the spec derives (R159, log 19), and that 8XY4 is Add is the pairing by position, its own inference (R76, log 14). -/
def Obligations.AddSetsTheCarry : Prop :=
  ∀ (x y : Reg),
    decodeWord (formatXYN 0x8 x y 0x4) = .ok (.add x y) ∧
    ∀ s : State, Completes (.add x y) s none [.v] (fun t =>
      (t.getV 0xF).toNat = (if (s.getV x).toNat + (s.getV y).toNat > 0xFF then 1 else 0) ∧
      (x ≠ 0xF → (t.getV x).toNat = ((s.getV x).toNat + (s.getV y).toNat) % 256) ∧
      SameRegsBut (fun r => r = x ∨ r = 0xF) s t)

/-- The difference mod 256 in V[X] and the inverted borrow in VF (42_alu.md R158, R161, R163). That the flag wins where X
is 0xF is the write order the spec derives (R159, log 19), and that 8XY5 and 8XY7 are Sub and SubReverse is the pairing by
position, its own inference (R76, log 14). -/
def Obligations.SubtractionsSetTheInvertedBorrow : Prop :=
  ∀ (x y : Reg),
    decodeWord (formatXYN 0x8 x y 0x5) = .ok (.sub x y) ∧ decodeWord (formatXYN 0x8 x y 0x7) = .ok (.subReverse x y) ∧
    ∀ s : State,
      Completes (.sub x y) s none [.v] (fun t =>
        (t.getV 0xF).toNat = (if (s.getV x).toNat ≥ (s.getV y).toNat then 1 else 0) ∧
        (x ≠ 0xF → (t.getV x).toNat = ((s.getV x).toNat + 256 - (s.getV y).toNat) % 256) ∧
        SameRegsBut (fun r => r = x ∨ r = 0xF) s t) ∧
      Completes (.subReverse x y) s none [.v] (fun t =>
        (t.getV 0xF).toNat = (if (s.getV y).toNat ≥ (s.getV x).toNat then 1 else 0) ∧
        (x ≠ 0xF → (t.getV x).toNat = ((s.getV y).toNat + 256 - (s.getV x).toNat) % 256) ∧
        SameRegsBut (fun r => r = x ∨ r = 0xF) s t)

/-- The shifts read V[Y]: VF gets the bit shifted out first, then V[X] the shifted operand, which is V[Y] before the
flag write, or after it where Y is 0xF and the reading is sequential (42_alu.md R159, R162, R164; the reading is a
parameter, D22, log 19). -/
def Obligations.ShiftsReadTheSecondRegister : Prop :=
  ∀ (x y : Reg) (s : State),
    let sequential := s.config.shiftOperandReading = .sequential
    let old := (s.getV y).toNat
    (let operand := if y = 0xF ∧ sequential then old % 2 else old
     Completes (.shiftRight x y) s none [.v] (fun t =>
      (t.getV x).toNat = operand / 2 ∧ (x ≠ 0xF → (t.getV 0xF).toNat = old % 2) ∧
      SameRegsBut (fun r => r = x ∨ r = 0xF) s t)) ∧
    (let operand := if y = 0xF ∧ sequential then old / 128 else old
     Completes (.shiftLeft x y) s none [.v] (fun t =>
      (t.getV x).toNat = (operand * 2) % 256 ∧ (x ≠ 0xF → (t.getV 0xF).toNat = old / 128) ∧
      SameRegsBut (fun r => r = x ∨ r = 0xF) s t))

/-- LoadRandomMasked masks the random byte of its step, whatever it is (42_alu.md R165; the random byte is a free input,
D21, log 4). -/
def Obligations.LoadRandomMaskedUsesTheStepsRandomByte : Prop :=
  ∀ (x : Reg) (nn : Byte) (s : State),
    Completes (.loadRandomMasked x nn) s none [.v] (fun t => t.getV x = s.rnd &&& nn ∧ SameRegsBut (· = x) s t) ∧
    ∀ rnd : Byte, s.pc.toNat ≤ 0xFFE → s.fetchWord = formatXNN 0xC x nn →
      Steps rnd s [.v, .pc, .dt, .st, .rnd, .result] (fun t =>
        t.getV x = rnd &&& nn ∧ SameRegsBut (· = x) s t ∧ t.pc = s.pc + 2 ∧ t.result = .ok none)

/-! ## Display -/

/-- R182 whole: ClearDisplay unsets every pixel of the 2048 and writes no register. -/
def Obligations.ClearDisplayUnsetsEveryPixel : Prop :=
  decodeWord 0x00E0 = .ok .clearDisplay ∧
  ∀ s : State, Completes .clearDisplay s none [.disp] (fun t =>
    ∀ (row : Fin 32) (col : Fin 64), t.pixel row col = false)

/-- DrawSprite, pixel by pixel: every display position is XORed with the sprite bit on it, positions past the right and
bottom edges do not exist, and VF is 1 iff some pixel went from set to unset (43_display.md R183 to R185; the order of
bits in a sprite byte and the range checked are the spec's own choices D14, D9, D10, log 13; drawing by rows is log 26). -/
def Obligations.DrawSpriteXorsEveryPixelAndDetectsCollision : Prop :=
  ∀ (x y : Reg) (n : Fin 16) (s : State), (n.val = 0 ∨ s.i.toNat + n.val - 1 ≤ 0xFFF) →
    Completes (.drawSprite x y n) s none [.disp, .v] (fun t =>
      (∀ (row : Fin 32) (col : Fin 64), t.pixel row col = (s.pixel row col ^^ spriteLights s x y n row col)) ∧
      ((∃ (row : Fin 32) (col : Fin 64), s.pixel row col = true ∧ t.pixel row col = false) → t.getV 0xF = 1) ∧
      ((∀ (row : Fin 32) (col : Fin 64), s.pixel row col = true → t.pixel row col = true) → t.getV 0xF = 0) ∧
      SameRegsBut (· = 0xF) s t)

/-- Drawing the same sprite twice at the same place restores the display, and where it lights a pixel that was unset, the
second draw collides (43_display.md R186, a property the spec derives from R184). -/
def Obligations.DrawingTwiceRestoresTheDisplay : Prop :=
  ∀ (x y : Reg) (n : Fin 16) (s t u : State), x ≠ 0xF → y ≠ 0xF →
    exec (.drawSprite x y n) s = .next t → t.result = .ok none → exec (.drawSprite x y n) t = .next u →
    u.result = .ok none ∧ u.disp = s.disp ∧
    ∀ (row : Fin 32) (col : Fin 64), spriteLights s x y n row col = true → s.pixel row col = false →
      t.pixel row col = true ∧ u.getV 0xF = 1

/-- Accesses through I that would touch an address above 0xFFF raise MemOutOfRange before any effect; the clipped rows
of a sprite count (20_memory.md R55, 60_exceptions.md R254, the spec's own choices D9, D10, log 16). -/
def Obligations.OutOfRangeAccessesRaiseBeforeAnyEffect : Prop :=
  ∀ (x y : Reg) (n : Fin 16) (s : State),
    (0 < n.val → 0xFFF < s.i.toNat + n.val - 1 → Raises (.drawSprite x y n) s .memOutOfRange) ∧
    (0xFFF < s.i.toNat + 2 → Raises (.storeBCD x) s .memOutOfRange) ∧
    (0xFFF < s.i.toNat + x.val → Raises (.storeRegisters x) s .memOutOfRange) ∧
    (0xFFF < s.i.toNat + x.val → Raises (.loadRegisters x) s .memOutOfRange)

/-- The display port shows column 0 as the most significant bit of a row word (43_display.md R181, the spec's own choice
D15, log 12), Observe reads every piece of state (40_step.md R109, D41), and the event changes nothing. -/
def Obligations.ObserveShowsTheStateAndChangesNothing : Prop :=
  ∀ s : State, handle .observe s = .next s ∧
    (∀ (row : Fin 32) (col : Fin 64), (s.displayPort.get row).getLsbD (63 - col.val) = s.pixel row col) ∧
    s.observe.mem.length = 4096 ∧ (∀ a : Nat, a < 4096 → s.observe.mem.getD a 0 = s.readMem a) ∧
    s.observe.v = s.v ∧ s.observe.i = s.i ∧ s.observe.pc = s.pc ∧ s.observe.stack = s.stack ∧ s.observe.sp = s.sp ∧
    s.observe.rows = s.displayPort ∧ s.observe.dt = s.dt ∧ s.observe.st = s.st ∧ s.observe.keys = s.keys ∧
    s.observe.lastKey = s.lastKey

/-! ## Index register and memory transfers -/

/-- R201 whole: SetIndex writes the 12-bit address to I, and nothing else. -/
def Obligations.SetIndexWritesTheAddress : Prop :=
  ∀ nnn : Addr, decodeWord (0xA#4 ++ nnn) = .ok (.setIndex nnn) ∧
    ∀ s : State, Completes (.setIndex nnn) s none [.i] (fun t => t.i.toNat = nnn.toNat)

/-- AddToIndex adds V[X] mod 2^16 without mask or flag, and LoadFontAddress writes 5 times the low nibble of V[X]
(44_index_memory.md R202, R203; the missing mask and the glyph addresses are the spec's own choices D29, D13, log 15,
log 21). -/
def Obligations.IndexArithmeticWritesOnlyIndex : Prop :=
  ∀ (x : Reg) (s : State),
    Completes (.addToIndex x) s none [.i] (fun t => t.i.toNat = (s.i.toNat + (s.getV x).toNat) % 65536) ∧
    Completes (.loadFontAddress x) s none [.i] (fun t => t.i.toNat = 5 * ((s.getV x).toNat % 16))

/-- StoreBCD writes the three decimal digits of V[X] at I, I+1, I+2, in range, and no other byte; I is unchanged
(44_index_memory.md R205; the range check is D9, that I is unchanged is log 22). -/
def Obligations.StoreBCDWritesTheDecimalDigits : Prop :=
  ∀ (x : Reg) (s : State), s.i.toNat + 2 ≤ 0xFFF →
    Completes (.storeBCD x) s none [.mem] (fun t =>
      (t.readMem s.i.toNat).toNat = (s.getV x).toNat / 100 ∧
      (t.readMem (s.i.toNat + 1)).toNat = (s.getV x).toNat / 10 % 10 ∧
      (t.readMem (s.i.toNat + 2)).toNat = (s.getV x).toNat % 10 ∧
      ∀ a : Nat, (a < s.i.toNat ∨ s.i.toNat + 2 < a) → t.readMem a = s.readMem a)

/-- StoreRegisters copies V[0]..V[X] to I..I+X, in range, and no other byte; I is unchanged (44_index_memory.md R208; the
range check is D9). -/
def Obligations.StoreRegistersCopiesToMemory : Prop :=
  ∀ (x : Reg) (s : State), s.i.toNat + x.val ≤ 0xFFF →
    Completes (.storeRegisters x) s none [.mem] (fun t =>
      (∀ k : Reg, k.val ≤ x.val → t.readMem (s.i.toNat + k.val) = s.getV k) ∧
      ∀ a : Nat, (a < s.i.toNat ∨ s.i.toNat + x.val < a) → t.readMem a = s.readMem a)

/-- LoadRegisters copies I..I+X to V[0]..V[X], in range, and no other register; I and memory are unchanged
(44_index_memory.md R210; the range check is D9). -/
def Obligations.LoadRegistersCopiesFromMemory : Prop :=
  ∀ (x : Reg) (s : State), s.i.toNat + x.val ≤ 0xFFF →
    Completes (.loadRegisters x) s none [.v] (fun t =>
      (∀ k : Reg, k.val ≤ x.val → t.getV k = s.readMem (s.i.toNat + k.val)) ∧
      SameRegsBut (fun k => k.val ≤ x.val) s t)

/-- StoreRegisters and then LoadRegisters at the same I, with the stored bytes unchanged between them, give every stored
register back, in particular all 16 for X = 0xF (44_index_memory.md R209, a property the spec derives). -/
def Obligations.StoreThenLoadGivesTheRegistersBack : Prop :=
  ∀ (x : Reg) (s t s' u : State), exec (.storeRegisters x) s = .next t → t.result = .ok none →
    s'.i = s.i → (∀ k : Nat, k ≤ x.val → s'.readMem (s.i.toNat + k) = t.readMem (s.i.toNat + k)) →
    exec (.loadRegisters x) s' = .next u →
    u.result = .ok none ∧ ∀ k : Reg, k.val ≤ x.val → u.getV k = s.getV k

/-! ## Keypad and timers -/

/-- The key skips: an index up to 0xF tests its bit of the mask, and a greater one does what the parameter
`key_index_policy` says (45_timers_keys.md R220, R221, R222; the policy is a parameter, D16, log 17). -/
def Obligations.KeySkipsTestTheKeyMask : Prop :=
  ∀ (x : Reg) (s : State),
    let idx := (s.getV x).toNat
    let skips (i : Instr) (c : Bool) := Completes i s none [.pc] (fun t => t.pc = if c = true then s.pc + 2 else s.pc)
    (idx ≤ 0xF → skips (.skipIfKeyPressed x) (s.keys.getLsbD idx) ∧
      skips (.skipIfKeyNotPressed x) (!s.keys.getLsbD idx)) ∧
    (0xF < idx → s.config.keyIndexPolicy = .maskLowNibble →
      skips (.skipIfKeyPressed x) (s.keys.getLsbD (idx % 16)) ∧
      skips (.skipIfKeyNotPressed x) (!s.keys.getLsbD (idx % 16))) ∧
    (0xF < idx → s.config.keyIndexPolicy = .notPressed →
      skips (.skipIfKeyPressed x) false ∧ skips (.skipIfKeyNotPressed x) true) ∧
    (0xF < idx → s.config.keyIndexPolicy = .fault →
      Raises (.skipIfKeyPressed x) s .keyIndexOutOfRange ∧ Raises (.skipIfKeyNotPressed x) s .keyIndexOutOfRange)

/-- AwaitKey stores last_key, which it does not clear, and proceeds, or without one rolls pc back by 2
(45_timers_keys.md R224; that last_key is not consumed is the spec's own choice D17, log 17). -/
def Obligations.AwaitKeyStoresTheKeyOrRollsBack : Prop :=
  ∀ (x : Reg) (s : State),
    (∀ k : Key, s.lastKey = some k → Completes (.awaitKey x) s none [.v] (fun t =>
      (t.getV x).toNat = k.val ∧ SameRegsBut (· = x) s t)) ∧
    (s.lastKey = none → Completes (.awaitKey x) s none [.pc] (fun t => t.pc = s.pc - 2))

/-- A blocked AwaitKey is an OK step that leaves pc at its own address and still ticks the timers (45_timers_keys.md R224,
R232, a property the spec derives). The tick at the end of an OK step is the spec's own choice (D19, D20, log 18), and that
FX0A is AwaitKey is the pairing by position, its own inference (R76, log 14). -/
def Obligations.BlockedAwaitKeyStaysAtItsAddress : Prop :=
  ∀ (rnd : Byte) (x : Reg) (s : State), s.pc.toNat ≤ 0xFFE → s.fetchWord = formatXNN 0xF x 0x0A → s.lastKey = none →
    Steps rnd s [.dt, .st, .rnd, .result] (fun t =>
      t.result = .ok none ∧ t.dt = atStepEnd s s.dt ∧ t.st = atStepEnd s s.st)

/-- The timer transfers, with their encodings (45_timers_keys.md R223, R225, R226). That LoadFromDelayTimer reads DT
before its step's tick, and that a timer that is written is ticked at the end of the same step in `per_step` mode, is the
spec's own choice (D19, D20, log 18), and that FX07, FX15 and FX18 are these operations is the pairing by position, its own
inference (R76, log 14). -/
def Obligations.TimerTransfers : Prop :=
  ∀ (x : Reg),
    decodeWord (formatXNN 0xF x 0x07) = .ok (.loadFromDelayTimer x) ∧
    decodeWord (formatXNN 0xF x 0x15) = .ok (.loadDelayTimer x) ∧
    decodeWord (formatXNN 0xF x 0x18) = .ok (.loadSoundTimer x) ∧
    (∀ s : State,
      Completes (.loadFromDelayTimer x) s none [.v] (fun t => t.getV x = s.dt ∧ SameRegsBut (· = x) s t) ∧
      Completes (.loadDelayTimer x) s none [.dt] (fun t => t.dt = s.getV x) ∧
      Completes (.loadSoundTimer x) s none [.st] (fun t => t.st = s.getV x)) ∧
    ∀ (rnd : Byte) (s : State), s.pc.toNat ≤ 0xFFE →
      (s.fetchWord = formatXNN 0xF x 0x07 → Steps rnd s [.v, .pc, .dt, .st, .rnd, .result] (fun t =>
        t.getV x = s.dt ∧ t.dt = atStepEnd s s.dt ∧ t.st = atStepEnd s s.st)) ∧
      (s.fetchWord = formatXNN 0xF x 0x15 → Steps rnd s [.pc, .dt, .st, .rnd, .result] (fun t =>
        t.dt = atStepEnd s (s.getV x) ∧ t.st = atStepEnd s s.st)) ∧
      (s.fetchWord = formatXNN 0xF x 0x18 → Steps rnd s [.pc, .dt, .st, .rnd, .result] (fun t =>
        t.dt = atStepEnd s s.dt ∧ t.st = atStepEnd s (s.getV x)))

/-- A tick counts each nonzero timer down by 1 and changes nothing else; the host's TimerTick is a tick in host_tick mode
and is not accepted in per_step mode (45_timers_keys.md R230, 40_step.md R100; the mode is a parameter, D19, and the
refusal of the event is log 9). -/
def Obligations.TickCountsEachTimerDown : Prop :=
  ∀ s : State,
    ((s.dt ≠ 0 → s.tick.dt.toNat + 1 = s.dt.toNat) ∧ (s.dt = 0 → s.tick.dt = 0) ∧
     (s.st ≠ 0 → s.tick.st.toNat + 1 = s.st.toNat) ∧ (s.st = 0 → s.tick.st = 0) ∧ SameBut [.dt, .st] s s.tick) ∧
    (s.config.timerTickMode = .hostTick → handle .timerTick s = .next s.tick) ∧
    (s.config.timerTickMode = .perStep → handle .timerTick s = .refused .timerTickNotAccepted)

/-- A step ticks at its end in per_step mode, iff its result is OK, and never in host_tick mode: an instruction that is no
timer load leaves each timer counted down once, or untouched (40_step.md R105, the spec's own choices D19, D20, log 18). -/
def Obligations.StepTicksOnlyAtItsOkEnd : Prop :=
  ∀ (rnd : Byte) (s t : State), stepWith rnd s = .next t →
    (∀ x : Reg, decodeWord s.fetchWord ≠ .ok (.loadDelayTimer x) ∧ decodeWord s.fetchWord ≠ .ok (.loadSoundTimer x)) →
    (t.result.isOk = true → t.dt = atStepEnd s s.dt ∧ t.st = atStepEnd s s.st) ∧
    (t.result.isOk = false → t.dt = s.dt ∧ t.st = s.st)

/-- KeyRefresh: `keys` takes the mask, `last_key` the lowest key that went from 0 to 1, or none, and nothing else changes
(45_timers_keys.md R231, the spec's own choice D18, log 17). -/
def Obligations.KeyRefreshFindsTheLowestNewKey : Prop :=
  ∀ (m : Word) (s : State),
    handle (.keyRefresh m) s = .next (s.keyRefresh m) ∧
    (s.keyRefresh m).keys = m ∧ SameBut [.keys, .lastKey] s (s.keyRefresh m) ∧
    ((s.keyRefresh m).lastKey = none ↔ ∀ k : Key, ¬ (m.getLsbD k.val = true ∧ s.keys.getLsbD k.val = false)) ∧
    ∀ k : Key, (s.keyRefresh m).lastKey = some k ↔
      (m.getLsbD k.val = true ∧ s.keys.getLsbD k.val = false ∧
        ∀ j : Key, j.val < k.val → ¬ (m.getLsbD j.val = true ∧ s.keys.getLsbD j.val = false))

/-! ## Runs -/

/-- run(n) is n steps in sequence, each from the state the step before left, that stop at the first ERR: every result but
the last is OK, fewer than n results end in an ERR, and run(n) returns that ERR, or OK after n steps. run(0) changes nothing
(40_step.md R108, the spec's own choice D40). -/
def Obligations.RunStopsAtTheFirstError : Prop :=
  (∀ s : State, run [] s = { results := [], state := s }) ∧
  (∀ (rnd : Byte) (rnds : List Byte) (s t : State), stepWith rnd s = .next t →
    (t.result.isOk = true →
      run (rnd :: rnds) s = { results := t.result :: (run rnds t).results, state := (run rnds t).state }) ∧
    (t.result.isOk = false → run (rnd :: rnds) s = { results := [t.result], state := t })) ∧
  ∀ (rnds : List Byte) (s : State),
    let r := run rnds s
    r.results.length ≤ rnds.length ∧
    (∀ k : Nat, k + 1 < r.results.length → ∃ d, r.results[k]? = some (.ok d)) ∧
    (r.results.length < rnds.length → ∃ k, r.results.getLast? = some (.err k)) ∧
    (rnds ≠ [] → r.results.getLast? = some r.state.result) ∧
    (∀ k : ErrorKind, r.error = some k ↔ r.results.getLast? = some (.err k)) ∧
    (r.error = none → r.results.length = rnds.length ∧ ∀ x ∈ r.results, x.isOk = true)

/-- A run is a finite sequence of host events from a Construct, observed by its end state and the result of every step, in
order: every event of it is performed on the state the events before it left, and a Step adds its result, an erring one too
(40_step.md R111, the spec's own choice D35; R250; log 8). -/
def Obligations.HostRunObservesEveryStepResult : Prop :=
  (∀ (cfg : Config) (image : List Byte) (es : List Event), hostRun cfg image es = handleAll es (State.construct cfg image)) ∧
  (∀ s : State, handleAll [] s = .next { results := [], state := s }) ∧
  ∀ (before after : List Event) (e : Event) (s : State) (r : RunEnd), handleAll (before ++ e :: after) s = .next r →
    ∃ (m rest : RunEnd) (t : State), handleAll before s = .next m ∧ handle e m.state = .next t ∧
      handleAll after t = .next rest ∧ r.state = rest.state ∧
      (∀ rnd : Byte, e = .step rnd → stepWith rnd m.state = .next t ∧
        r.results = m.results ++ t.result :: rest.results) ∧
      ((∀ rnd : Byte, e ≠ .step rnd) → r.results = m.results ++ rest.results)
end

