-- ==== Sys2Proof/Laws/Decode.lean ====
section
/-! SUPPORT. The fields of a word built in one of the formats of spec/30_encoding.md R73, and the word built back from
its fields. -/

namespace Sys2Proof

@[simp] theorem indexOfNibble_nibbleOfIndex (k : Fin 16) : indexOfNibble (nibbleOfIndex k) = k := by
  apply Fin.ext
  simp only [indexOfNibble, nibbleOfIndex, BitVec.toNat_ofNat]
  have := k.isLt; omega

@[simp] theorem nibbleOfIndex_indexOfNibble (b : BitVec 4) : nibbleOfIndex (indexOfNibble b) = b := by
  simp [indexOfNibble, nibbleOfIndex]

/-- The 4 bits from bit `lo` on of a word, bit by bit. -/
theorem getLsbD_field (w : Word) (lo n k : Nat) (hk : k < n) :
    (w.extractLsb' lo n).getLsbD k = w.getLsbD (lo + k) := by
  simp [hk]

theorem formatXNN_getLsbD (f : BitVec 4) (x : Reg) (nn : Byte) (k : Nat) :
    (formatXNN f x nn).getLsbD k =
      if k < 8 then nn.getLsbD k else if k < 12 then (nibbleOfIndex x).getLsbD (k - 8) else f.getLsbD (k - 12) := by
  simp only [formatXNN, BitVec.getLsbD_append]
  by_cases h1 : k < 8
  · simp [h1]
  · by_cases h2 : k < 12
    · have h3 : k - 8 < 4 := by omega
      simp [h1, h2, h3]
    · have h3 : ¬ k - 8 < 4 := by omega
      have h4 : k - 8 - 4 = k - 12 := by omega
      simp [h1, h2, h3, h4]

theorem formatXYN_getLsbD (f : BitVec 4) (x y : Reg) (n : BitVec 4) (k : Nat) :
    (formatXYN f x y n).getLsbD k =
      if k < 4 then n.getLsbD k else if k < 8 then (nibbleOfIndex y).getLsbD (k - 4)
      else if k < 12 then (nibbleOfIndex x).getLsbD (k - 8) else f.getLsbD (k - 12) := by
  simp only [formatXYN, BitVec.getLsbD_append]
  by_cases h0 : k < 4
  · have h1 : k < 8 := by omega
    simp [h0, h1]
  · by_cases h1 : k < 8
    · simp [h0, h1]
    · by_cases h2 : k < 12
      · have h3 : k - 8 < 4 := by omega
        simp [h0, h1, h2, h3]
      · have h3 : ¬ k - 8 < 4 := by omega
        have h4 : k - 8 - 4 = k - 12 := by omega
        simp [h0, h1, h2, h3, h4]

theorem formatNNN_getLsbD (f : BitVec 4) (nnn : Addr) (k : Nat) :
    (formatNNN f nnn).getLsbD k = if k < 12 then nnn.getLsbD k else f.getLsbD (k - 12) := by
  exact (BitVec.getLsbD_append (x := f) (y := nnn)).trans (by by_cases h : k < 12 <;> simp [h])

@[simp] theorem fieldF_formatNNN (f : BitVec 4) (nnn : Addr) : fieldF (formatNNN f nnn) = f := by
  apply BitVec.eq_of_getLsbD_eq; intro k hk
  have h1 : ¬ 12 + k < 12 := by omega
  simp only [fieldF, getLsbD_field _ _ _ _ hk, formatNNN_getLsbD, if_neg h1, Nat.add_sub_cancel_left]

@[simp] theorem fieldNNN_formatNNN (f : BitVec 4) (nnn : Addr) : fieldNNN (formatNNN f nnn) = nnn := by
  apply BitVec.eq_of_getLsbD_eq; intro k hk
  simp only [fieldNNN, getLsbD_field _ _ _ _ hk, formatNNN_getLsbD, Nat.zero_add, if_pos hk]

@[simp] theorem fieldF_formatXNN (f : BitVec 4) (x : Reg) (nn : Byte) : fieldF (formatXNN f x nn) = f := by
  apply BitVec.eq_of_getLsbD_eq; intro k hk
  have h1 : ¬ 12 + k < 8 := by omega
  have h2 : ¬ 12 + k < 12 := by omega
  simp only [fieldF, getLsbD_field _ _ _ _ hk, formatXNN_getLsbD, if_neg h1, if_neg h2, Nat.add_sub_cancel_left]

@[simp] theorem fieldX_formatXNN (f : BitVec 4) (x : Reg) (nn : Byte) : fieldX (formatXNN f x nn) = x := by
  have : (formatXNN f x nn).extractLsb' 8 4 = nibbleOfIndex x := by
    apply BitVec.eq_of_getLsbD_eq; intro k hk
    have h1 : ¬ 8 + k < 8 := by omega
    have h2 : 8 + k < 12 := by omega
    simp only [getLsbD_field _ _ _ _ hk, formatXNN_getLsbD, if_neg h1, if_pos h2, Nat.add_sub_cancel_left]
  simp [fieldX, this]

@[simp] theorem fieldNN_formatXNN (f : BitVec 4) (x : Reg) (nn : Byte) : fieldNN (formatXNN f x nn) = nn := by
  apply BitVec.eq_of_getLsbD_eq; intro k hk
  simp only [fieldNN, getLsbD_field _ _ _ _ hk, formatXNN_getLsbD, Nat.zero_add, if_pos hk]

@[simp] theorem fieldF_formatXYN (f : BitVec 4) (x y : Reg) (n : BitVec 4) : fieldF (formatXYN f x y n) = f := by
  apply BitVec.eq_of_getLsbD_eq; intro k hk
  have h0 : ¬ 12 + k < 4 := by omega
  have h1 : ¬ 12 + k < 8 := by omega
  have h2 : ¬ 12 + k < 12 := by omega
  simp only [fieldF, getLsbD_field _ _ _ _ hk, formatXYN_getLsbD, if_neg h0, if_neg h1, if_neg h2,
    Nat.add_sub_cancel_left]

@[simp] theorem fieldX_formatXYN (f : BitVec 4) (x y : Reg) (n : BitVec 4) : fieldX (formatXYN f x y n) = x := by
  have : (formatXYN f x y n).extractLsb' 8 4 = nibbleOfIndex x := by
    apply BitVec.eq_of_getLsbD_eq; intro k hk
    have h0 : ¬ 8 + k < 4 := by omega
    have h1 : ¬ 8 + k < 8 := by omega
    have h2 : 8 + k < 12 := by omega
    simp only [getLsbD_field _ _ _ _ hk, formatXYN_getLsbD, if_neg h0, if_neg h1, if_pos h2, Nat.add_sub_cancel_left]
  simp [fieldX, this]

@[simp] theorem fieldY_formatXYN (f : BitVec 4) (x y : Reg) (n : BitVec 4) : fieldY (formatXYN f x y n) = y := by
  have : (formatXYN f x y n).extractLsb' 4 4 = nibbleOfIndex y := by
    apply BitVec.eq_of_getLsbD_eq; intro k hk
    have h0 : ¬ 4 + k < 4 := by omega
    have h1 : 4 + k < 8 := by omega
    simp only [getLsbD_field _ _ _ _ hk, formatXYN_getLsbD, if_neg h0, if_pos h1, Nat.add_sub_cancel_left]
  simp [fieldY, this]

@[simp] theorem fieldN_formatXYN (f : BitVec 4) (x y : Reg) (n : BitVec 4) :
    fieldN (formatXYN f x y n) = indexOfNibble n := by
  have : (formatXYN f x y n).extractLsb' 0 4 = n := by
    apply BitVec.eq_of_getLsbD_eq; intro k hk
    simp only [getLsbD_field _ _ _ _ hk, formatXYN_getLsbD, Nat.zero_add, if_pos hk]
  simp [fieldN, this]

/-- A word is its family and its address field. -/
theorem formatNNN_fields (w : Word) : formatNNN (fieldF w) (fieldNNN w) = w := by
  apply BitVec.eq_of_getLsbD_eq; intro k hk
  rw [formatNNN_getLsbD]
  by_cases h : k < 12
  · rw [if_pos h, fieldNNN, getLsbD_field _ _ _ _ h, Nat.zero_add]
  · have h1 : k - 12 < 4 := by omega
    have h2 : 12 + (k - 12) = k := by omega
    rw [if_neg h, fieldF, getLsbD_field _ _ _ _ h1, h2]

/-- A word is its family, X and NN. -/
theorem formatXNN_fields (w : Word) : formatXNN (fieldF w) (fieldX w) (fieldNN w) = w := by
  apply BitVec.eq_of_getLsbD_eq; intro k hk
  rw [formatXNN_getLsbD]
  by_cases h : k < 8
  · rw [if_pos h, fieldNN, getLsbD_field _ _ _ _ h, Nat.zero_add]
  · rw [if_neg h]
    by_cases h' : k < 12
    · have h1 : k - 8 < 4 := by omega
      have h2 : 8 + (k - 8) = k := by omega
      rw [if_pos h', fieldX, nibbleOfIndex_indexOfNibble, getLsbD_field _ _ _ _ h1, h2]
    · have h1 : k - 12 < 4 := by omega
      have h2 : 12 + (k - 12) = k := by omega
      rw [if_neg h', fieldF, getLsbD_field _ _ _ _ h1, h2]

/-- A word is its family, X, Y and N. -/
theorem formatXYN_fields (w : Word) :
    formatXYN (fieldF w) (fieldX w) (fieldY w) (nibbleOfIndex (fieldN w)) = w := by
  apply BitVec.eq_of_getLsbD_eq; intro k hk
  rw [formatXYN_getLsbD]
  by_cases h0 : k < 4
  · rw [if_pos h0, fieldN, nibbleOfIndex_indexOfNibble, getLsbD_field _ _ _ _ h0, Nat.zero_add]
  · rw [if_neg h0]
    by_cases h : k < 8
    · have h1 : k - 4 < 4 := by omega
      have h2 : 4 + (k - 4) = k := by omega
      rw [if_pos h, fieldY, nibbleOfIndex_indexOfNibble, getLsbD_field _ _ _ _ h1, h2]
    · rw [if_neg h]
      by_cases h' : k < 12
      · have h1 : k - 8 < 4 := by omega
        have h2 : 8 + (k - 8) = k := by omega
        rw [if_pos h', fieldX, nibbleOfIndex_indexOfNibble, getLsbD_field _ _ _ _ h1, h2]
      · have h1 : k - 12 < 4 := by omega
        have h2 : 12 + (k - 12) = k := by omega
        rw [if_neg h', fieldF, getLsbD_field _ _ _ _ h1, h2]

/-- A word's two bytes put together are the word. -/
@[simp] theorem wordOfBytes_bytes (w : Word) : wordOfBytes (highByte w) (lowByte w) = w := by
  apply BitVec.eq_of_getLsbD_eq; intro k hk
  simp only [wordOfBytes, BitVec.getLsbD_append, highByte, lowByte]
  by_cases h : k < 8
  · simp [h]
  · have h1 : k - 8 < 8 := by omega
    have h2 : 8 + (k - 8) = k := by omega
    simp [h, h1, h2]

end Sys2Proof
end

