-- ==== Sys2Proof/Laws/Memory.lean ====
section
/-! SUPPORT. The laws of memory: what a read gives after a write, and that every operation keeps the canonical form. -/

namespace Sys2Proof.Machine.Memory

theorem read_erase (m : Memory) (a b : Nat) :
    read (erase m a) b = if b = a then background a else read m b := by
  induction m with
  | nil => by_cases h : b = a <;> simp [erase, read, h]
  | cons c rest ih =>
    obtain ⟨k, v⟩ := c
    simp only [erase] at ih ⊢
    by_cases hk : k = a
    · subst hk
      by_cases hb : b = k
      · simpa [hb] using ih
      · simp [read, hb, Ne.symm hb, ih]
    · by_cases hb : k = b
      · subst hb; simp [read, hk]
      · simp [read, hk, hb, ih]

theorem read_insertCell (m : Memory) (a b : Nat) (v : Byte) (h : ∀ c ∈ m, c.1 ≠ a) :
    read (insertCell a v m) b = if b = a then v else read m b := by
  induction m with
  | nil =>
    by_cases hb : b = a
    · simp [insertCell, read, hb]
    · simp [insertCell, read, hb, Ne.symm hb]
  | cons c rest ih =>
    obtain ⟨k, u⟩ := c
    have ih := ih (fun c hc => h c (by simp [hc]))
    have hk : k ≠ a := h (k, u) (by simp)
    by_cases hlt : a < k
    · by_cases hb : b = a
      · simp [insertCell, hlt, read, hb]
      · simp [insertCell, hlt, read, hb, Ne.symm hb]
    · by_cases hb : b = a
      · subst hb; simp [insertCell, hlt, read, hk, ih]
      · simp [insertCell, hlt, read, hb, ih]

theorem not_mem_erase (m : Memory) (a : Nat) : ∀ c ∈ erase m a, c.1 ≠ a := by
  intro c hc
  simpa using (List.mem_filter.mp hc).2

/-- A read after a write: the written byte at its address, the byte before everywhere else. It holds of every list. -/
theorem read_write (m : Memory) (a b : Nat) (v : Byte) :
    read (write m a v) b = if b = a then v else read m b := by
  unfold write
  split
  · rename_i h; rw [read_erase, h]
  · rw [read_insertCell _ _ _ _ (not_mem_erase m a), read_erase]
    by_cases hb : b = a <;> simp [hb]

@[simp] theorem read_write_same (m : Memory) (a : Nat) (v : Byte) : read (write m a v) a = v := by
  simp [read_write]

@[simp] theorem read_write_other (m : Memory) {a b : Nat} (v : Byte) (h : b ≠ a) :
    read (write m a v) b = read m b := by
  simp [read_write, h]

/-- A read after a write of several bytes. -/
theorem read_writeBytes (bs : List Byte) : ∀ (m : Memory) (a b : Nat),
    read (writeBytes m a bs) b = if a ≤ b ∧ b < a + bs.length then bs.getD (b - a) 0 else read m b := by
  induction bs with
  | nil => intro m a b; have : ¬ (a ≤ b ∧ b < a) := by omega
           simp [writeBytes, this]
  | cons v vs ih =>
    intro m a b
    simp only [writeBytes, ih, read_write, List.length_cons]
    by_cases hb : b = a
    · subst hb
      simp
    · by_cases hin : a + 1 ≤ b ∧ b < a + 1 + vs.length
      · have h2 : a ≤ b ∧ b < a + (vs.length + 1) := by omega
        have h3 : b - a = (b - (a + 1)) + 1 := by omega
        rw [if_pos hin, if_pos h2, h3]; simp
      · have h2 : ¬ (a ≤ b ∧ b < a + (vs.length + 1)) := by omega
        rw [if_neg hin, if_neg h2, if_neg hb]

@[simp] theorem readBytes_length (m : Memory) (n : Nat) : ∀ a, (readBytes m a n).length = n := by
  induction n with
  | zero => intro a; rfl
  | succ n ih => intro a; simp [readBytes, ih]

theorem readBytes_getElem (m : Memory) : ∀ (n a k : Nat) (h : k < (readBytes m a n).length),
    (readBytes m a n)[k] = read m (a + k) := by
  intro n
  induction n with
  | zero => intro a k h; simp at h
  | succ n ih =>
    intro a k h
    cases k with
    | zero => simp [readBytes]
    | succ k =>
      have := ih (a + 1) k (by simpa [readBytes] using h)
      simp only [readBytes, List.getElem_cons_succ, this]
      congr 1; omega

/-- The bytes read at addresses in order. -/
theorem readBytes_getD (m : Memory) (n a k : Nat) (h : k < n) : (readBytes m a n).getD k 0 = read m (a + k) := by
  rw [List.getD_eq_getElem _ _ (by simpa using h), readBytes_getElem]

/-! The canonical form. -/

theorem wfFrom_mono {m : Memory} {lo lo' : Nat} (h : lo' ≤ lo) (hm : wfFrom lo m = true) : wfFrom lo' m = true := by
  cases m with
  | nil => rfl
  | cons c rest =>
    obtain ⟨a, b⟩ := c
    simp only [wfFrom, Bool.and_eq_true, decide_eq_true_eq] at hm ⊢
    exact ⟨⟨⟨by omega, hm.1.1.2⟩, hm.1.2⟩, hm.2⟩

theorem wfFrom_erase {m : Memory} (a : Nat) : ∀ {lo : Nat}, wfFrom lo m = true → wfFrom lo (erase m a) = true := by
  induction m with
  | nil => intro lo h; rfl
  | cons c rest ih =>
    obtain ⟨k, b⟩ := c
    intro lo h
    simp only [wfFrom, Bool.and_eq_true, decide_eq_true_eq] at h
    obtain ⟨⟨⟨h1, h2⟩, h3⟩, h4⟩ := h
    by_cases hk : k = a
    · subst hk
      have : erase ((k, b) :: rest) k = erase rest k := by simp [erase]
      rw [this]
      exact wfFrom_mono (by omega) (ih h4)
    · have : erase ((k, b) :: rest) a = (k, b) :: erase rest a := by simp [erase, hk]
      rw [this]
      simp only [wfFrom, Bool.and_eq_true, decide_eq_true_eq]
      exact ⟨⟨⟨h1, h2⟩, h3⟩, ih h4⟩

theorem wfFrom_insertCell {m : Memory} {a : Nat} {v : Byte} (ha : a < memSize) (hv : v ≠ background a) :
    ∀ {lo : Nat}, lo ≤ a → wfFrom lo m = true → (∀ c ∈ m, c.1 ≠ a) → wfFrom lo (insertCell a v m) = true := by
  induction m with
  | nil => intro lo hlo _ _; simp [insertCell, wfFrom, hlo, ha, hv]
  | cons c rest ih =>
    obtain ⟨k, b⟩ := c
    intro lo hlo h hne
    have hk : k ≠ a := hne (k, b) (by simp)
    simp only [wfFrom, Bool.and_eq_true, decide_eq_true_eq] at h
    obtain ⟨⟨⟨h1, h2⟩, h3⟩, h4⟩ := h
    by_cases hlt : a < k
    · simp only [insertCell, hlt, if_true, wfFrom, Bool.and_eq_true, decide_eq_true_eq]
      exact ⟨⟨⟨hlo, ha⟩, by simpa using hv⟩, ⟨⟨by omega, h2⟩, h3⟩, h4⟩
    · simp only [insertCell, hlt, if_false, wfFrom, Bool.and_eq_true, decide_eq_true_eq]
      exact ⟨⟨⟨h1, h2⟩, h3⟩, ih (by omega) h4 (fun c hc => hne c (by simp [hc]))⟩

/-- Every write to an address that exists keeps the canonical form. -/
theorem wf_write {m : Memory} {a : Nat} (v : Byte) (h : wf m = true) (ha : a < memSize) : wf (write m a v) = true := by
  unfold write
  split
  · exact wfFrom_erase a h
  · rename_i hv
    exact wfFrom_insertCell ha hv (Nat.zero_le a) (wfFrom_erase a h) (not_mem_erase m a)

theorem wf_writeBytes (bs : List Byte) : ∀ {m : Memory} {a : Nat}, wf m = true → a + bs.length ≤ memSize →
    wf (writeBytes m a bs) = true := by
  induction bs with
  | nil => intro m a h _; exact h
  | cons v vs ih =>
    intro m a h ha
    simp only [List.length_cons] at ha
    exact ih (wf_write v h (by omega)) (by omega)

/-- In canonical form an address below the first one allowed is not listed. -/
theorem read_below {m : Memory} : ∀ {lo a : Nat}, wfFrom lo m = true → a < lo → read m a = background a := by
  induction m with
  | nil => intro lo a _ _; rfl
  | cons c rest ih =>
    obtain ⟨k, b⟩ := c
    intro lo a h ha
    simp only [wfFrom, Bool.and_eq_true, decide_eq_true_eq] at h
    have hk : k ≠ a := by omega
    simp only [read, hk, if_false]
    exact ih h.2 (by omega)

end Sys2Proof.Machine.Memory
end

