-- ==== Sys2Proof/Laws/State.lean ====
section
/-! SUPPORT. One lemma per field per update of State, so that no proof unfolds a record update. -/

namespace Sys2Proof.Machine.State

variable (s : State)

@[simp] theorem setV_mem (r : Reg) (b : Byte) : (s.setV r b).mem = s.mem := rfl
@[simp] theorem setV_v (r : Reg) (b : Byte) : (s.setV r b).v = s.v.set r.val b r.isLt := rfl
@[simp] theorem setV_i (r : Reg) (b : Byte) : (s.setV r b).i = s.i := rfl
@[simp] theorem setV_pc (r : Reg) (b : Byte) : (s.setV r b).pc = s.pc := rfl
@[simp] theorem setV_stack (r : Reg) (b : Byte) : (s.setV r b).stack = s.stack := rfl
@[simp] theorem setV_sp (r : Reg) (b : Byte) : (s.setV r b).sp = s.sp := rfl
@[simp] theorem setV_disp (r : Reg) (b : Byte) : (s.setV r b).disp = s.disp := rfl
@[simp] theorem setV_dt (r : Reg) (b : Byte) : (s.setV r b).dt = s.dt := rfl
@[simp] theorem setV_st (r : Reg) (b : Byte) : (s.setV r b).st = s.st := rfl
@[simp] theorem setV_keys (r : Reg) (b : Byte) : (s.setV r b).keys = s.keys := rfl
@[simp] theorem setV_lastKey (r : Reg) (b : Byte) : (s.setV r b).lastKey = s.lastKey := rfl
@[simp] theorem setV_config (r : Reg) (b : Byte) : (s.setV r b).config = s.config := rfl
@[simp] theorem setV_rnd (r : Reg) (b : Byte) : (s.setV r b).rnd = s.rnd := rfl
@[simp] theorem setV_draws (r : Reg) (b : Byte) : (s.setV r b).draws = s.draws := rfl
@[simp] theorem setV_result (r : Reg) (b : Byte) : (s.setV r b).result = s.result := rfl
@[simp] theorem setV_faulted (r : Reg) (b : Byte) : (s.setV r b).faulted = s.faulted := rfl
@[simp] theorem setV_readMem (r : Reg) (b : Byte) (a : Nat) : (s.setV r b).readMem a = s.readMem a := rfl

@[simp] theorem setI_mem (w : Word) : (s.setI w).mem = s.mem := rfl
@[simp] theorem setI_v (w : Word) : (s.setI w).v = s.v := rfl
@[simp] theorem setI_i (w : Word) : (s.setI w).i = w := rfl
@[simp] theorem setI_pc (w : Word) : (s.setI w).pc = s.pc := rfl
@[simp] theorem setI_stack (w : Word) : (s.setI w).stack = s.stack := rfl
@[simp] theorem setI_sp (w : Word) : (s.setI w).sp = s.sp := rfl
@[simp] theorem setI_disp (w : Word) : (s.setI w).disp = s.disp := rfl
@[simp] theorem setI_dt (w : Word) : (s.setI w).dt = s.dt := rfl
@[simp] theorem setI_st (w : Word) : (s.setI w).st = s.st := rfl
@[simp] theorem setI_keys (w : Word) : (s.setI w).keys = s.keys := rfl
@[simp] theorem setI_lastKey (w : Word) : (s.setI w).lastKey = s.lastKey := rfl
@[simp] theorem setI_config (w : Word) : (s.setI w).config = s.config := rfl
@[simp] theorem setI_rnd (w : Word) : (s.setI w).rnd = s.rnd := rfl
@[simp] theorem setI_draws (w : Word) : (s.setI w).draws = s.draws := rfl
@[simp] theorem setI_result (w : Word) : (s.setI w).result = s.result := rfl
@[simp] theorem setI_faulted (w : Word) : (s.setI w).faulted = s.faulted := rfl
@[simp] theorem setI_getV (w : Word) (q : Reg) : (s.setI w).getV q = s.getV q := rfl
@[simp] theorem setI_readMem (w : Word) (a : Nat) : (s.setI w).readMem a = s.readMem a := rfl

@[simp] theorem setPc_mem (w : Word) : (s.setPc w).mem = s.mem := rfl
@[simp] theorem setPc_v (w : Word) : (s.setPc w).v = s.v := rfl
@[simp] theorem setPc_i (w : Word) : (s.setPc w).i = s.i := rfl
@[simp] theorem setPc_pc (w : Word) : (s.setPc w).pc = w := rfl
@[simp] theorem setPc_stack (w : Word) : (s.setPc w).stack = s.stack := rfl
@[simp] theorem setPc_sp (w : Word) : (s.setPc w).sp = s.sp := rfl
@[simp] theorem setPc_disp (w : Word) : (s.setPc w).disp = s.disp := rfl
@[simp] theorem setPc_dt (w : Word) : (s.setPc w).dt = s.dt := rfl
@[simp] theorem setPc_st (w : Word) : (s.setPc w).st = s.st := rfl
@[simp] theorem setPc_keys (w : Word) : (s.setPc w).keys = s.keys := rfl
@[simp] theorem setPc_lastKey (w : Word) : (s.setPc w).lastKey = s.lastKey := rfl
@[simp] theorem setPc_config (w : Word) : (s.setPc w).config = s.config := rfl
@[simp] theorem setPc_rnd (w : Word) : (s.setPc w).rnd = s.rnd := rfl
@[simp] theorem setPc_draws (w : Word) : (s.setPc w).draws = s.draws := rfl
@[simp] theorem setPc_result (w : Word) : (s.setPc w).result = s.result := rfl
@[simp] theorem setPc_faulted (w : Word) : (s.setPc w).faulted = s.faulted := rfl
@[simp] theorem setPc_getV (w : Word) (q : Reg) : (s.setPc w).getV q = s.getV q := rfl
@[simp] theorem setPc_readMem (w : Word) (a : Nat) : (s.setPc w).readMem a = s.readMem a := rfl

@[simp] theorem setDt_mem (b : Byte) : (s.setDt b).mem = s.mem := rfl
@[simp] theorem setDt_v (b : Byte) : (s.setDt b).v = s.v := rfl
@[simp] theorem setDt_i (b : Byte) : (s.setDt b).i = s.i := rfl
@[simp] theorem setDt_pc (b : Byte) : (s.setDt b).pc = s.pc := rfl
@[simp] theorem setDt_stack (b : Byte) : (s.setDt b).stack = s.stack := rfl
@[simp] theorem setDt_sp (b : Byte) : (s.setDt b).sp = s.sp := rfl
@[simp] theorem setDt_disp (b : Byte) : (s.setDt b).disp = s.disp := rfl
@[simp] theorem setDt_dt (b : Byte) : (s.setDt b).dt = b := rfl
@[simp] theorem setDt_st (b : Byte) : (s.setDt b).st = s.st := rfl
@[simp] theorem setDt_keys (b : Byte) : (s.setDt b).keys = s.keys := rfl
@[simp] theorem setDt_lastKey (b : Byte) : (s.setDt b).lastKey = s.lastKey := rfl
@[simp] theorem setDt_config (b : Byte) : (s.setDt b).config = s.config := rfl
@[simp] theorem setDt_rnd (b : Byte) : (s.setDt b).rnd = s.rnd := rfl
@[simp] theorem setDt_draws (b : Byte) : (s.setDt b).draws = s.draws := rfl
@[simp] theorem setDt_result (b : Byte) : (s.setDt b).result = s.result := rfl
@[simp] theorem setDt_faulted (b : Byte) : (s.setDt b).faulted = s.faulted := rfl
@[simp] theorem setDt_getV (b : Byte) (q : Reg) : (s.setDt b).getV q = s.getV q := rfl
@[simp] theorem setDt_readMem (b : Byte) (a : Nat) : (s.setDt b).readMem a = s.readMem a := rfl

@[simp] theorem setSt_mem (b : Byte) : (s.setSt b).mem = s.mem := rfl
@[simp] theorem setSt_v (b : Byte) : (s.setSt b).v = s.v := rfl
@[simp] theorem setSt_i (b : Byte) : (s.setSt b).i = s.i := rfl
@[simp] theorem setSt_pc (b : Byte) : (s.setSt b).pc = s.pc := rfl
@[simp] theorem setSt_stack (b : Byte) : (s.setSt b).stack = s.stack := rfl
@[simp] theorem setSt_sp (b : Byte) : (s.setSt b).sp = s.sp := rfl
@[simp] theorem setSt_disp (b : Byte) : (s.setSt b).disp = s.disp := rfl
@[simp] theorem setSt_dt (b : Byte) : (s.setSt b).dt = s.dt := rfl
@[simp] theorem setSt_st (b : Byte) : (s.setSt b).st = b := rfl
@[simp] theorem setSt_keys (b : Byte) : (s.setSt b).keys = s.keys := rfl
@[simp] theorem setSt_lastKey (b : Byte) : (s.setSt b).lastKey = s.lastKey := rfl
@[simp] theorem setSt_config (b : Byte) : (s.setSt b).config = s.config := rfl
@[simp] theorem setSt_rnd (b : Byte) : (s.setSt b).rnd = s.rnd := rfl
@[simp] theorem setSt_draws (b : Byte) : (s.setSt b).draws = s.draws := rfl
@[simp] theorem setSt_result (b : Byte) : (s.setSt b).result = s.result := rfl
@[simp] theorem setSt_faulted (b : Byte) : (s.setSt b).faulted = s.faulted := rfl
@[simp] theorem setSt_getV (b : Byte) (q : Reg) : (s.setSt b).getV q = s.getV q := rfl
@[simp] theorem setSt_readMem (b : Byte) (a : Nat) : (s.setSt b).readMem a = s.readMem a := rfl

@[simp] theorem setDisp_mem (d : Vector RowWord 32) : (s.setDisp d).mem = s.mem := rfl
@[simp] theorem setDisp_v (d : Vector RowWord 32) : (s.setDisp d).v = s.v := rfl
@[simp] theorem setDisp_i (d : Vector RowWord 32) : (s.setDisp d).i = s.i := rfl
@[simp] theorem setDisp_pc (d : Vector RowWord 32) : (s.setDisp d).pc = s.pc := rfl
@[simp] theorem setDisp_stack (d : Vector RowWord 32) : (s.setDisp d).stack = s.stack := rfl
@[simp] theorem setDisp_sp (d : Vector RowWord 32) : (s.setDisp d).sp = s.sp := rfl
@[simp] theorem setDisp_disp (d : Vector RowWord 32) : (s.setDisp d).disp = d := rfl
@[simp] theorem setDisp_dt (d : Vector RowWord 32) : (s.setDisp d).dt = s.dt := rfl
@[simp] theorem setDisp_st (d : Vector RowWord 32) : (s.setDisp d).st = s.st := rfl
@[simp] theorem setDisp_keys (d : Vector RowWord 32) : (s.setDisp d).keys = s.keys := rfl
@[simp] theorem setDisp_lastKey (d : Vector RowWord 32) : (s.setDisp d).lastKey = s.lastKey := rfl
@[simp] theorem setDisp_config (d : Vector RowWord 32) : (s.setDisp d).config = s.config := rfl
@[simp] theorem setDisp_rnd (d : Vector RowWord 32) : (s.setDisp d).rnd = s.rnd := rfl
@[simp] theorem setDisp_draws (d : Vector RowWord 32) : (s.setDisp d).draws = s.draws := rfl
@[simp] theorem setDisp_result (d : Vector RowWord 32) : (s.setDisp d).result = s.result := rfl
@[simp] theorem setDisp_faulted (d : Vector RowWord 32) : (s.setDisp d).faulted = s.faulted := rfl
@[simp] theorem setDisp_getV (d : Vector RowWord 32) (q : Reg) : (s.setDisp d).getV q = s.getV q := rfl
@[simp] theorem setDisp_readMem (d : Vector RowWord 32) (a : Nat) : (s.setDisp d).readMem a = s.readMem a := rfl

@[simp] theorem setMem_mem (m : Memory) : (s.setMem m).mem = m := rfl
@[simp] theorem setMem_v (m : Memory) : (s.setMem m).v = s.v := rfl
@[simp] theorem setMem_i (m : Memory) : (s.setMem m).i = s.i := rfl
@[simp] theorem setMem_pc (m : Memory) : (s.setMem m).pc = s.pc := rfl
@[simp] theorem setMem_stack (m : Memory) : (s.setMem m).stack = s.stack := rfl
@[simp] theorem setMem_sp (m : Memory) : (s.setMem m).sp = s.sp := rfl
@[simp] theorem setMem_disp (m : Memory) : (s.setMem m).disp = s.disp := rfl
@[simp] theorem setMem_dt (m : Memory) : (s.setMem m).dt = s.dt := rfl
@[simp] theorem setMem_st (m : Memory) : (s.setMem m).st = s.st := rfl
@[simp] theorem setMem_keys (m : Memory) : (s.setMem m).keys = s.keys := rfl
@[simp] theorem setMem_lastKey (m : Memory) : (s.setMem m).lastKey = s.lastKey := rfl
@[simp] theorem setMem_config (m : Memory) : (s.setMem m).config = s.config := rfl
@[simp] theorem setMem_rnd (m : Memory) : (s.setMem m).rnd = s.rnd := rfl
@[simp] theorem setMem_draws (m : Memory) : (s.setMem m).draws = s.draws := rfl
@[simp] theorem setMem_result (m : Memory) : (s.setMem m).result = s.result := rfl
@[simp] theorem setMem_faulted (m : Memory) : (s.setMem m).faulted = s.faulted := rfl
@[simp] theorem setMem_getV (m : Memory) (q : Reg) : (s.setMem m).getV q = s.getV q := rfl

@[simp] theorem setRegs_mem (u : Vector Byte 16) : (s.setRegs u).mem = s.mem := rfl
@[simp] theorem setRegs_v (u : Vector Byte 16) : (s.setRegs u).v = u := rfl
@[simp] theorem setRegs_i (u : Vector Byte 16) : (s.setRegs u).i = s.i := rfl
@[simp] theorem setRegs_pc (u : Vector Byte 16) : (s.setRegs u).pc = s.pc := rfl
@[simp] theorem setRegs_stack (u : Vector Byte 16) : (s.setRegs u).stack = s.stack := rfl
@[simp] theorem setRegs_sp (u : Vector Byte 16) : (s.setRegs u).sp = s.sp := rfl
@[simp] theorem setRegs_disp (u : Vector Byte 16) : (s.setRegs u).disp = s.disp := rfl
@[simp] theorem setRegs_dt (u : Vector Byte 16) : (s.setRegs u).dt = s.dt := rfl
@[simp] theorem setRegs_st (u : Vector Byte 16) : (s.setRegs u).st = s.st := rfl
@[simp] theorem setRegs_keys (u : Vector Byte 16) : (s.setRegs u).keys = s.keys := rfl
@[simp] theorem setRegs_lastKey (u : Vector Byte 16) : (s.setRegs u).lastKey = s.lastKey := rfl
@[simp] theorem setRegs_config (u : Vector Byte 16) : (s.setRegs u).config = s.config := rfl
@[simp] theorem setRegs_rnd (u : Vector Byte 16) : (s.setRegs u).rnd = s.rnd := rfl
@[simp] theorem setRegs_draws (u : Vector Byte 16) : (s.setRegs u).draws = s.draws := rfl
@[simp] theorem setRegs_result (u : Vector Byte 16) : (s.setRegs u).result = s.result := rfl
@[simp] theorem setRegs_faulted (u : Vector Byte 16) : (s.setRegs u).faulted = s.faulted := rfl
@[simp] theorem setRegs_readMem (u : Vector Byte 16) (a : Nat) : (s.setRegs u).readMem a = s.readMem a := rfl

@[simp] theorem setResult_mem (r : StepResult) : (s.setResult r).mem = s.mem := rfl
@[simp] theorem setResult_v (r : StepResult) : (s.setResult r).v = s.v := rfl
@[simp] theorem setResult_i (r : StepResult) : (s.setResult r).i = s.i := rfl
@[simp] theorem setResult_pc (r : StepResult) : (s.setResult r).pc = s.pc := rfl
@[simp] theorem setResult_stack (r : StepResult) : (s.setResult r).stack = s.stack := rfl
@[simp] theorem setResult_sp (r : StepResult) : (s.setResult r).sp = s.sp := rfl
@[simp] theorem setResult_disp (r : StepResult) : (s.setResult r).disp = s.disp := rfl
@[simp] theorem setResult_dt (r : StepResult) : (s.setResult r).dt = s.dt := rfl
@[simp] theorem setResult_st (r : StepResult) : (s.setResult r).st = s.st := rfl
@[simp] theorem setResult_keys (r : StepResult) : (s.setResult r).keys = s.keys := rfl
@[simp] theorem setResult_lastKey (r : StepResult) : (s.setResult r).lastKey = s.lastKey := rfl
@[simp] theorem setResult_config (r : StepResult) : (s.setResult r).config = s.config := rfl
@[simp] theorem setResult_rnd (r : StepResult) : (s.setResult r).rnd = s.rnd := rfl
@[simp] theorem setResult_draws (r : StepResult) : (s.setResult r).draws = s.draws := rfl
@[simp] theorem setResult_result (r : StepResult) : (s.setResult r).result = r := rfl
@[simp] theorem setResult_faulted (r : StepResult) : (s.setResult r).faulted = s.faulted := rfl
@[simp] theorem setResult_getV (r : StepResult) (q : Reg) : (s.setResult r).getV q = s.getV q := rfl
@[simp] theorem setResult_readMem (r : StepResult) (a : Nat) : (s.setResult r).readMem a = s.readMem a := rfl

@[simp] theorem withError_mem (k : ErrorKind) : (s.withError k).mem = s.mem := rfl
@[simp] theorem withError_v (k : ErrorKind) : (s.withError k).v = s.v := rfl
@[simp] theorem withError_i (k : ErrorKind) : (s.withError k).i = s.i := rfl
@[simp] theorem withError_pc (k : ErrorKind) : (s.withError k).pc = s.pc := rfl
@[simp] theorem withError_stack (k : ErrorKind) : (s.withError k).stack = s.stack := rfl
@[simp] theorem withError_sp (k : ErrorKind) : (s.withError k).sp = s.sp := rfl
@[simp] theorem withError_disp (k : ErrorKind) : (s.withError k).disp = s.disp := rfl
@[simp] theorem withError_dt (k : ErrorKind) : (s.withError k).dt = s.dt := rfl
@[simp] theorem withError_st (k : ErrorKind) : (s.withError k).st = s.st := rfl
@[simp] theorem withError_keys (k : ErrorKind) : (s.withError k).keys = s.keys := rfl
@[simp] theorem withError_lastKey (k : ErrorKind) : (s.withError k).lastKey = s.lastKey := rfl
@[simp] theorem withError_config (k : ErrorKind) : (s.withError k).config = s.config := rfl
@[simp] theorem withError_rnd (k : ErrorKind) : (s.withError k).rnd = s.rnd := rfl
@[simp] theorem withError_draws (k : ErrorKind) : (s.withError k).draws = s.draws := rfl
@[simp] theorem withError_result (k : ErrorKind) : (s.withError k).result = .err k := rfl
@[simp] theorem withError_faulted (k : ErrorKind) : (s.withError k).faulted = some (s.faulted.getD k) := rfl
@[simp] theorem withError_getV (k : ErrorKind) (q : Reg) : (s.withError k).getV q = s.getV q := rfl
@[simp] theorem withError_readMem (k : ErrorKind) (a : Nat) : (s.withError k).readMem a = s.readMem a := rfl

@[simp] theorem setRnd_mem (b : Byte) : (s.setRnd b).mem = s.mem := rfl
@[simp] theorem setRnd_v (b : Byte) : (s.setRnd b).v = s.v := rfl
@[simp] theorem setRnd_i (b : Byte) : (s.setRnd b).i = s.i := rfl
@[simp] theorem setRnd_pc (b : Byte) : (s.setRnd b).pc = s.pc := rfl
@[simp] theorem setRnd_stack (b : Byte) : (s.setRnd b).stack = s.stack := rfl
@[simp] theorem setRnd_sp (b : Byte) : (s.setRnd b).sp = s.sp := rfl
@[simp] theorem setRnd_disp (b : Byte) : (s.setRnd b).disp = s.disp := rfl
@[simp] theorem setRnd_dt (b : Byte) : (s.setRnd b).dt = s.dt := rfl
@[simp] theorem setRnd_st (b : Byte) : (s.setRnd b).st = s.st := rfl
@[simp] theorem setRnd_keys (b : Byte) : (s.setRnd b).keys = s.keys := rfl
@[simp] theorem setRnd_lastKey (b : Byte) : (s.setRnd b).lastKey = s.lastKey := rfl
@[simp] theorem setRnd_config (b : Byte) : (s.setRnd b).config = s.config := rfl
@[simp] theorem setRnd_rnd (b : Byte) : (s.setRnd b).rnd = b := rfl
@[simp] theorem setRnd_draws (b : Byte) : (s.setRnd b).draws = s.draws := rfl
@[simp] theorem setRnd_result (b : Byte) : (s.setRnd b).result = s.result := rfl
@[simp] theorem setRnd_faulted (b : Byte) : (s.setRnd b).faulted = s.faulted := rfl
@[simp] theorem setRnd_getV (b : Byte) (q : Reg) : (s.setRnd b).getV q = s.getV q := rfl
@[simp] theorem setRnd_readMem (b : Byte) (a : Nat) : (s.setRnd b).readMem a = s.readMem a := rfl

@[simp] theorem nextDraw_mem : (s.nextDraw).mem = s.mem := rfl
@[simp] theorem nextDraw_v : (s.nextDraw).v = s.v := rfl
@[simp] theorem nextDraw_i : (s.nextDraw).i = s.i := rfl
@[simp] theorem nextDraw_pc : (s.nextDraw).pc = s.pc := rfl
@[simp] theorem nextDraw_stack : (s.nextDraw).stack = s.stack := rfl
@[simp] theorem nextDraw_sp : (s.nextDraw).sp = s.sp := rfl
@[simp] theorem nextDraw_disp : (s.nextDraw).disp = s.disp := rfl
@[simp] theorem nextDraw_dt : (s.nextDraw).dt = s.dt := rfl
@[simp] theorem nextDraw_st : (s.nextDraw).st = s.st := rfl
@[simp] theorem nextDraw_keys : (s.nextDraw).keys = s.keys := rfl
@[simp] theorem nextDraw_lastKey : (s.nextDraw).lastKey = s.lastKey := rfl
@[simp] theorem nextDraw_config : (s.nextDraw).config = s.config := rfl
@[simp] theorem nextDraw_rnd : (s.nextDraw).rnd = s.rnd := rfl
@[simp] theorem nextDraw_draws : (s.nextDraw).draws = s.draws + 1 := rfl
@[simp] theorem nextDraw_result : (s.nextDraw).result = s.result := rfl
@[simp] theorem nextDraw_faulted : (s.nextDraw).faulted = s.faulted := rfl
@[simp] theorem nextDraw_getV (q : Reg) : (s.nextDraw).getV q = s.getV q := rfl
@[simp] theorem nextDraw_readMem (a : Nat) : (s.nextDraw).readMem a = s.readMem a := rfl

@[simp] theorem advancePc_mem : (s.advancePc).mem = s.mem := rfl
@[simp] theorem advancePc_v : (s.advancePc).v = s.v := rfl
@[simp] theorem advancePc_i : (s.advancePc).i = s.i := rfl
@[simp] theorem advancePc_pc : (s.advancePc).pc = s.pc + 2 := rfl
@[simp] theorem advancePc_stack : (s.advancePc).stack = s.stack := rfl
@[simp] theorem advancePc_sp : (s.advancePc).sp = s.sp := rfl
@[simp] theorem advancePc_disp : (s.advancePc).disp = s.disp := rfl
@[simp] theorem advancePc_dt : (s.advancePc).dt = s.dt := rfl
@[simp] theorem advancePc_st : (s.advancePc).st = s.st := rfl
@[simp] theorem advancePc_keys : (s.advancePc).keys = s.keys := rfl
@[simp] theorem advancePc_lastKey : (s.advancePc).lastKey = s.lastKey := rfl
@[simp] theorem advancePc_config : (s.advancePc).config = s.config := rfl
@[simp] theorem advancePc_rnd : (s.advancePc).rnd = s.rnd := rfl
@[simp] theorem advancePc_draws : (s.advancePc).draws = s.draws := rfl
@[simp] theorem advancePc_result : (s.advancePc).result = s.result := rfl
@[simp] theorem advancePc_faulted : (s.advancePc).faulted = s.faulted := rfl
@[simp] theorem advancePc_getV (q : Reg) : (s.advancePc).getV q = s.getV q := rfl
@[simp] theorem advancePc_readMem (a : Nat) : (s.advancePc).readMem a = s.readMem a := rfl

@[simp] theorem tick_mem : (s.tick).mem = s.mem := rfl
@[simp] theorem tick_v : (s.tick).v = s.v := rfl
@[simp] theorem tick_i : (s.tick).i = s.i := rfl
@[simp] theorem tick_pc : (s.tick).pc = s.pc := rfl
@[simp] theorem tick_stack : (s.tick).stack = s.stack := rfl
@[simp] theorem tick_sp : (s.tick).sp = s.sp := rfl
@[simp] theorem tick_disp : (s.tick).disp = s.disp := rfl
@[simp] theorem tick_dt : (s.tick).dt = countDown s.dt := rfl
@[simp] theorem tick_st : (s.tick).st = countDown s.st := rfl
@[simp] theorem tick_keys : (s.tick).keys = s.keys := rfl
@[simp] theorem tick_lastKey : (s.tick).lastKey = s.lastKey := rfl
@[simp] theorem tick_config : (s.tick).config = s.config := rfl
@[simp] theorem tick_rnd : (s.tick).rnd = s.rnd := rfl
@[simp] theorem tick_draws : (s.tick).draws = s.draws := rfl
@[simp] theorem tick_result : (s.tick).result = s.result := rfl
@[simp] theorem tick_faulted : (s.tick).faulted = s.faulted := rfl
@[simp] theorem tick_getV (q : Reg) : (s.tick).getV q = s.getV q := rfl
@[simp] theorem tick_readMem (a : Nat) : (s.tick).readMem a = s.readMem a := rfl

@[simp] theorem keyRefresh_mem (m : Word) : (s.keyRefresh m).mem = s.mem := rfl
@[simp] theorem keyRefresh_v (m : Word) : (s.keyRefresh m).v = s.v := rfl
@[simp] theorem keyRefresh_i (m : Word) : (s.keyRefresh m).i = s.i := rfl
@[simp] theorem keyRefresh_pc (m : Word) : (s.keyRefresh m).pc = s.pc := rfl
@[simp] theorem keyRefresh_stack (m : Word) : (s.keyRefresh m).stack = s.stack := rfl
@[simp] theorem keyRefresh_sp (m : Word) : (s.keyRefresh m).sp = s.sp := rfl
@[simp] theorem keyRefresh_disp (m : Word) : (s.keyRefresh m).disp = s.disp := rfl
@[simp] theorem keyRefresh_dt (m : Word) : (s.keyRefresh m).dt = s.dt := rfl
@[simp] theorem keyRefresh_st (m : Word) : (s.keyRefresh m).st = s.st := rfl
@[simp] theorem keyRefresh_keys (m : Word) : (s.keyRefresh m).keys = m := rfl
@[simp] theorem keyRefresh_lastKey (m : Word) : (s.keyRefresh m).lastKey = lowestKey (m &&& ~~~s.keys) := rfl
@[simp] theorem keyRefresh_config (m : Word) : (s.keyRefresh m).config = s.config := rfl
@[simp] theorem keyRefresh_rnd (m : Word) : (s.keyRefresh m).rnd = s.rnd := rfl
@[simp] theorem keyRefresh_draws (m : Word) : (s.keyRefresh m).draws = s.draws := rfl
@[simp] theorem keyRefresh_result (m : Word) : (s.keyRefresh m).result = s.result := rfl
@[simp] theorem keyRefresh_faulted (m : Word) : (s.keyRefresh m).faulted = s.faulted := rfl
@[simp] theorem keyRefresh_getV (m : Word) (q : Reg) : (s.keyRefresh m).getV q = s.getV q := rfl
@[simp] theorem keyRefresh_readMem (m : Word) (a : Nat) : (s.keyRefresh m).readMem a = s.readMem a := rfl

@[simp] theorem setMem_readMem (m : Memory) (a : Nat) : (s.setMem m).readMem a = Memory.read m a := rfl

@[simp] theorem setRegs_getV (u : Vector Byte 16) (q : Reg) : (s.setRegs u).getV q = u.get q := rfl

/-- A register write and every register read after it. -/
theorem setV_getV (r q : Reg) (b : Byte) : (s.setV r b).getV q = if q = r then b else s.getV q := by
  by_cases h : q = r
  · subst h; simp [getV, setV, Vector.get_eq_getElem]
  · have h' : r.val ≠ q.val := fun e => h (Fin.ext e.symm)
    simp [getV, setV, Vector.get_eq_getElem, Vector.getElem_set_ne _ _ h', h]

@[simp] theorem setV_getV_same (r : Reg) (b : Byte) : (s.setV r b).getV r = b := by simp [setV_getV]

@[simp] theorem setV_getV_other {r q : Reg} (b : Byte) (h : q ≠ r) : (s.setV r b).getV q = s.getV q := by
  simp [setV_getV, h]

/-- A skip changes pc alone. -/
theorem skipIf_eq (c : Bool) : s.skipIf c = s.setPc (if c then s.pc + 2 else s.pc) := by
  cases c <;> rfl

/-- The end of a step is a tick or nothing. -/
theorem endStep_eq :
    s.endStep = if s.result.isOk = true ∧ s.config.timerTickMode = .perStep then s.tick else s := by
  simp [endStep]

end Sys2Proof.Machine.State
end

