-- ==== Sys2Proof/Laws/Operands.lean ====
section
/-! SUPPORT. What each shared operation and operand form can do, said once. -/

namespace Sys2Proof.Machine

/-- A push: at sp < 16 the entry and sp change, at sp = 16 it gives nothing. -/
theorem State.push_cases (s : State) (ra : Word) :
    (∃ h : s.sp.val < 16, s.push ra =
      some { s with stack := s.stack.set s.sp.val ra h, sp := ⟨s.sp.val + 1, by omega⟩ }) ∨
    (s.sp.val = 16 ∧ s.push ra = none) := by
  by_cases h : s.sp.val < 16
  · exact .inl ⟨h, by simp [push, h]⟩
  · exact .inr ⟨by omega, by simp [push, h]⟩

/-- A pop: at sp > 0 sp alone changes, at sp = 0 it gives nothing. -/
theorem State.pop_cases (s : State) :
    (∃ h : 0 < s.sp.val, s.pop =
      some (s.stack[s.sp.val - 1]'(by omega), { s with sp := ⟨s.sp.val - 1, by omega⟩ })) ∨
    (s.sp.val = 0 ∧ s.pop = none) := by
  by_cases h : 0 < s.sp.val
  · exact .inl ⟨h, by simp [pop, h]⟩
  · exact .inr ⟨by omega, by simp [pop, h]⟩

@[simp] theorem isOk_ok (d : Option Diagnostic) : (StepResult.ok d).isOk = true := rfl

@[simp] theorem isOk_err (k : ErrorKind) : (StepResult.err k).isOk = false := rfl

theorem StepResult.isOk_iff (r : StepResult) : r.isOk = true ↔ ∃ d, r = .ok d := by
  cases r <;> simp

theorem State.indexInRange_iff (s : State) (n : Nat) :
    s.indexInRange n = true ↔ (n = 0 ∨ s.i.toNat + n ≤ 0x1000) := by
  simp only [indexInRange, decide_eq_true_eq]; omega

theorem State.not_indexInRange_iff (s : State) (n : Nat) :
    s.indexInRange n = false ↔ (0 < n ∧ 0xFFF < s.i.toNat + n - 1) := by
  simp only [indexInRange, decide_eq_false_iff_not]; omega

@[simp] theorem State.storeAtIndex_readMem (s : State) (bs : List Byte) (a : Nat) :
    (s.storeAtIndex bs).readMem a =
      if s.i.toNat ≤ a ∧ a < s.i.toNat + bs.length then bs.getD (a - s.i.toNat) 0 else s.readMem a :=
  Memory.read_writeBytes bs s.mem s.i.toNat a

@[simp] theorem State.bytesAtIndex_length (s : State) (n : Nat) : (s.bytesAtIndex n).length = n :=
  Memory.readBytes_length s.mem n _

theorem State.bytesAtIndex_getD (s : State) {n k : Nat} (h : k < n) :
    (s.bytesAtIndex n).getD k 0 = s.readMem (s.i.toNat + k) :=
  Memory.readBytes_getD s.mem n _ k h

@[simp] theorem State.regsUpTo_length (s : State) (x : Reg) : (s.regsUpTo x).length = x.val + 1 := by
  simp [regsUpTo]

theorem State.regsUpTo_getD (s : State) (x q : Reg) (h : q.val ≤ x.val) :
    (s.regsUpTo x).getD q.val 0 = s.getV q := by
  have hq : q.val < (s.regsUpTo x).length := by simp; omega
  rw [List.getD_eq_getElem _ _ hq]
  simp [regsUpTo, getV, Vector.get_eq_getElem]

@[simp] theorem bcdDigits_length (b : Byte) : (bcdDigits b).length = 3 := rfl

/-- Registers read after a range of them is written. -/
theorem writeRegsFrom_get (bs : List Byte) : ∀ (v : Vector Byte 16) (k : Nat) (q : Reg),
    (writeRegsFrom v k bs).get q = if k ≤ q.val ∧ q.val < k + bs.length then bs.getD (q.val - k) 0 else v.get q := by
  induction bs with
  | nil =>
    intro v k q
    have : ¬ (k ≤ q.val ∧ q.val < k + 0) := by omega
    simp only [writeRegsFrom, List.length_nil, if_neg this]
  | cons b rest ih =>
    intro v k q
    simp only [writeRegsFrom, ih, List.length_cons]
    by_cases hq : q.val = k
    · have h1 : ¬ (k + 1 ≤ q.val ∧ q.val < k + 1 + rest.length) := by omega
      have h2 : k ≤ q.val ∧ q.val < k + (rest.length + 1) := by omega
      rw [if_neg h1, if_pos h2]
      simp [Vector.get_eq_getElem, hq]
    · have hne : k ≠ q.val := fun e => hq e.symm
      have hget : (v.setIfInBounds k b).get q = v.get q := by
        simp [Vector.get_eq_getElem, hne]
      by_cases hin : k + 1 ≤ q.val ∧ q.val < k + 1 + rest.length
      · have h2 : k ≤ q.val ∧ q.val < k + (rest.length + 1) := by omega
        have h3 : q.val - k = (q.val - (k + 1)) + 1 := by omega
        rw [if_pos hin, if_pos h2, h3]; simp
      · have h2 : ¬ (k ≤ q.val ∧ q.val < k + (rest.length + 1)) := by omega
        rw [if_neg hin, if_neg h2, hget]

/-- The key test, in all the cases of R220. -/
theorem State.keyDown_cases (s : State) (idx : Byte) :
    (idx.toNat ≤ 0xF ∧ s.keyDown idx = some (s.keys.getLsbD idx.toNat)) ∨
    (0xF < idx.toNat ∧ s.config.keyIndexPolicy = .fault ∧ s.keyDown idx = none) ∨
    (0xF < idx.toNat ∧ s.config.keyIndexPolicy = .maskLowNibble ∧
      s.keyDown idx = some (s.keys.getLsbD (idx &&& 0xF).toNat)) ∨
    (0xF < idx.toNat ∧ s.config.keyIndexPolicy = .notPressed ∧ s.keyDown idx = some false) := by
  by_cases h : idx.toNat ≤ 0xF
  · exact .inl ⟨h, by simp only [keyDown, if_pos h]; rfl⟩
  · cases hp : s.config.keyIndexPolicy
    · exact .inr (.inl ⟨by omega, rfl, by simp only [keyDown, if_neg h, hp]⟩)
    · exact .inr (.inr (.inl ⟨by omega, rfl, by simp only [keyDown, if_neg h, hp]; rfl⟩))
    · exact .inr (.inr (.inr ⟨by omega, rfl, by simp only [keyDown, if_neg h, hp]⟩))

theorem flagByte_toNat (b : Bool) : (flagByte b).toNat = if b = true then 1 else 0 := by cases b <;> rfl

end Sys2Proof.Machine
end

