-- ==== Sys2Proof/Laws/Display.lean ====
section
/-! SUPPORT. Drawing by row words, pixel by pixel (spec/43_display.md R184): where a sprite row lands, what each display
row becomes, and when a pixel goes from set to unset. -/

namespace Sys2Proof.Machine

/-- A sprite row lights column `c` iff it lies in the 8 columns from `x0` on and its sprite bit is 1. -/
theorem spriteRow_getMsbD {x0 c : Nat} (b : Byte) (hc : c < 64) :
    (spriteRow x0 b).getMsbD c = (decide (x0 ≤ c ∧ c - x0 < 8) && b.getLsbD (7 - (c - x0))) := by
  simp only [spriteRow, BitVec.getMsbD_eq_getLsbD, hc, decide_true, Bool.true_and, BitVec.getLsbD_ushiftRight,
    BitVec.getLsbD_shiftLeft, BitVec.getLsbD_setWidth]
  by_cases h1 : x0 ≤ c
  · by_cases h2 : c - x0 < 8
    · have e : x0 + (64 - 1 - c) - 56 = 7 - (c - x0) := by omega
      have a1 : x0 + (64 - 1 - c) < 64 := by omega
      have a2 : ¬ x0 + (64 - 1 - c) < 56 := by omega
      have a3 : 7 - (c - x0) < 64 := by omega
      simp [h1, h2, e, a1, a2, a3]
    · have a2 : x0 + (64 - 1 - c) < 56 := by omega
      simp [h2, a2]
  · have a1 : ¬ x0 + (64 - 1 - c) < 64 := by omega
    simp [h1, a1]

/-- A row is hit iff some pixel of it is set and lit. -/
theorem rowCollides_iff (x0 : Nat) (b : Byte) (row : RowWord) :
    rowCollides x0 b row = true ↔ ∃ c, c < 64 ∧ row.getMsbD c = true ∧ (spriteRow x0 b).getMsbD c = true := by
  constructor
  · intro h
    by_contra hn
    have hz : row &&& spriteRow x0 b = 0 := by
      apply BitVec.eq_of_getMsbD_eq
      intro c hc
      have := fun h1 h2 => hn ⟨c, hc, h1, h2⟩
      cases h1 : row.getMsbD c <;> cases h2 : (spriteRow x0 b).getMsbD c <;> simp_all
    simp [rowCollides, hz] at h
  · rintro ⟨c, hc, h1, h2⟩
    simp only [rowCollides, bne_iff_ne]
    intro hz
    have := congrArg (fun w => BitVec.getMsbD w c) hz
    simp [h1, h2] at this

/-- Display rows outside those drawn, row by row: row `r` is XORed with the sprite row that falls on it. -/
theorem drawRows_row (x0 : Nat) (bs : List Byte) : ∀ (row : Nat) (d : Vector RowWord 32) (c : Bool) (r : Fin 32),
    (drawRows x0 row bs d c).1.get r =
      if row ≤ r.val ∧ r.val < row + bs.length then d.get r ^^^ spriteRow x0 (bs.getD (r.val - row) 0) else d.get r := by
  induction bs with
  | nil =>
    intro row d c r
    have : ¬ (row ≤ r.val ∧ r.val < row + 0) := by omega
    simp only [drawRows, List.length_nil, if_neg this]
  | cons b rest ih =>
    intro row d c r
    by_cases hrow : row < 32
    · simp only [drawRows, dif_pos hrow, ih, List.length_cons]
      by_cases he : r.val = row
      · have h1 : ¬ (row + 1 ≤ r.val ∧ r.val < row + 1 + rest.length) := by omega
        have h2 : row ≤ r.val ∧ r.val < row + (rest.length + 1) := by omega
        rw [if_neg h1, if_pos h2]
        simp [Vector.get_eq_getElem, he]
      · have hne : row ≠ r.val := fun e => he e.symm
        have hget : ∀ w, (d.set row w hrow).get r = d.get r := by
          intro w; simp [Vector.get_eq_getElem, Vector.getElem_set_ne _ _ hne]
        by_cases hin : row + 1 ≤ r.val ∧ r.val < row + 1 + rest.length
        · have h2 : row ≤ r.val ∧ r.val < row + (rest.length + 1) := by omega
          have h3 : r.val - row = (r.val - (row + 1)) + 1 := by omega
          rw [if_pos hin, if_pos h2, hget, h3]; simp
        · have h2 : ¬ (row ≤ r.val ∧ r.val < row + (rest.length + 1)) := by omega
          rw [if_neg hin, if_neg h2, hget]
    · have h2 : ¬ (row ≤ r.val ∧ r.val < row + (rest.length + 1)) := by omega
      simp only [drawRows, dif_neg hrow, List.length_cons, if_neg h2]

/-- The collision found: the one so far, or one on a display row that is drawn on. -/
theorem drawRows_collides (x0 : Nat) (bs : List Byte) : ∀ (row : Nat) (d : Vector RowWord 32) (c : Bool),
    (drawRows x0 row bs d c).2 = true ↔
      c = true ∨ ∃ r : Fin 32, (row ≤ r.val ∧ r.val < row + bs.length) ∧
        rowCollides x0 (bs.getD (r.val - row) 0) (d.get r) = true := by
  induction bs with
  | nil =>
    intro row d c
    simp only [drawRows, List.length_nil]
    constructor
    · exact .inl
    · rintro (h | ⟨r, h, -⟩)
      · exact h
      · omega
  | cons b rest ih =>
    intro row d c
    by_cases hrow : row < 32
    · simp only [drawRows, dif_pos hrow, ih, List.length_cons, Bool.or_eq_true]
      have hget : ∀ (w : RowWord) (r : Fin 32), row ≠ r.val → (d.set row w hrow).get r = d.get r := by
        intro w r hne; simp [Vector.get_eq_getElem, Vector.getElem_set_ne _ _ hne]
      constructor
      · rintro ((h | h) | ⟨r, hr, h⟩)
        · exact .inl h
        · exact .inr ⟨⟨row, hrow⟩, by simp, by simpa [Vector.get_eq_getElem] using h⟩
        · refine .inr ⟨r, by omega, ?_⟩
          rw [hget _ r (by omega)] at h
          have h3 : r.val - row = (r.val - (row + 1)) + 1 := by omega
          rw [h3]; simpa using h
      · rintro (h | ⟨r, hr, h⟩)
        · exact .inl (.inl h)
        · by_cases he : r.val = row
          · refine .inl (.inr ?_)
            simpa [Vector.get_eq_getElem, he] using h
          · refine .inr ⟨r, by omega, ?_⟩
            rw [hget _ r (by omega)]
            have h3 : r.val - row = (r.val - (row + 1)) + 1 := by omega
            rw [h3] at h; simpa using h
    · simp only [drawRows, dif_neg hrow]
      constructor
      · exact .inl
      · rintro (h | ⟨r, hr, -⟩)
        · exact h
        · have := r.isLt; omega

end Sys2Proof.Machine
end

