-- ==== Sys2Proof/Laws/Events.lean ====
section
/-! SUPPORT. The host's events and sequences of them: what an event adds to a run's observation, and how a sequence begins. -/

namespace Sys2Proof.Machine

theorem handleAll_nil (s : State) : handleAll [] s = .next { results := [], state := s } := rfl

/-- A sequence goes on from the state its first event leaves, and a Step's result comes first. -/
theorem handleAll_cons {e : Event} {s t : State} (h : handle e s = .next t) (es : List Event) :
    handleAll (e :: es) s = prependResults (e.results t) (handleAll es t) := by
  simp only [handleAll, h]

/-- What a sequence that is accepted begins with: an event that is accepted, and a rest that is. -/
theorem handleAll_cons_cases {e : Event} {es : List Event} {s : State} {r : RunEnd}
    (h : handleAll (e :: es) s = .next r) :
    ∃ t u, handle e s = .next t ∧ handleAll es t = .next u ∧
      r = { results := e.results t ++ u.results, state := u.state } := by
  cases he : handle e s with
  | next t =>
    rw [handleAll_cons he] at h
    cases hes : handleAll es t with
    | next u => rw [hes] at h; cases h; exact ⟨t, u, rfl, hes, rfl⟩
    | fault f => exact nomatch f
    | refused q => rw [hes] at h; cases h
  | fault f => exact nomatch f
  | refused q => simp only [handleAll, he] at h; cases h

@[simp] theorem Event.results_step (rnd : Byte) (t : State) : (Event.step rnd).results t = [t.result] := rfl
@[simp] theorem Event.results_construct (im : List Byte) (t : State) : (Event.construct im).results t = [] := rfl
@[simp] theorem Event.results_keyRefresh (m : Word) (t : State) : (Event.keyRefresh m).results t = [] := rfl
@[simp] theorem Event.results_timerTick (t : State) : Event.timerTick.results t = [] := rfl
@[simp] theorem Event.results_observe (t : State) : Event.observe.results t = [] := rfl

end Sys2Proof.Machine
end

