-- ==== Sys2Proof/Laws/Frame.lean ====
section
/-! SUPPORT. Frames: they compose, and each update of State changes only its own parts. -/

namespace Sys2Proof.Machine

theorem SamePart.refl (s : State) (p : Part) : SamePart s s p := by cases p <;> simp [SamePart]

theorem SamePart.trans {s t u : State} {p : Part} (h1 : SamePart s t p) (h2 : SamePart t u p) : SamePart s u p := by
  cases p with
  | mem => intro a; exact (h2 a).trans (h1 a)
  | _ => exact Eq.trans h2 h1

theorem SameBut.refl (ps : List Part) (s : State) : SameBut ps s s := fun p _ => SamePart.refl s p

theorem SameBut.trans {ps : List Part} {s t u : State} (h1 : SameBut ps s t) (h2 : SameBut ps t u) : SameBut ps s u :=
  fun p hp => (h1 p hp).trans (h2 p hp)

theorem SameBut.mono {ps qs : List Part} {s t : State} (h : SameBut ps s t) (hsub : ∀ p ∈ ps, p ∈ qs) :
    SameBut qs s t := fun p hp => h p (fun hin => hp (hsub p hin))

theorem sameBut_setV (s : State) (r : Reg) (b : Byte) : SameBut [.v] s (s.setV r b) := by
  intro p hp; cases p <;> simp_all [SamePart]

theorem sameBut_setRegs (s : State) (u : Vector Byte 16) : SameBut [.v] s (s.setRegs u) := by
  intro p hp; cases p <;> simp_all [SamePart]

theorem sameBut_setI (s : State) (w : Word) : SameBut [.i] s (s.setI w) := by
  intro p hp; cases p <;> simp_all [SamePart]

theorem sameBut_setPc (s : State) (w : Word) : SameBut [.pc] s (s.setPc w) := by
  intro p hp; cases p <;> simp_all [SamePart]

theorem sameBut_setDt (s : State) (b : Byte) : SameBut [.dt] s (s.setDt b) := by
  intro p hp; cases p <;> simp_all [SamePart]

theorem sameBut_setSt (s : State) (b : Byte) : SameBut [.st] s (s.setSt b) := by
  intro p hp; cases p <;> simp_all [SamePart]

theorem sameBut_setDisp (s : State) (d : Vector RowWord 32) : SameBut [.disp] s (s.setDisp d) := by
  intro p hp; cases p <;> simp_all [SamePart]

theorem sameBut_setMem (s : State) (m : Memory) : SameBut [.mem] s (s.setMem m) := by
  intro p hp; cases p <;> simp_all [SamePart]

theorem sameBut_setResult (s : State) (r : StepResult) : SameBut [.result] s (s.setResult r) := by
  intro p hp; cases p <;> simp_all [SamePart]

theorem sameBut_withError (s : State) (k : ErrorKind) : SameBut [.result, .faulted] s (s.withError k) := by
  intro p hp; cases p <;> simp_all [SamePart]

theorem sameBut_setRnd (s : State) (b : Byte) : SameBut [.rnd] s (s.setRnd b) := by
  intro p hp; cases p <;> simp_all [SamePart]

theorem sameBut_tick (s : State) : SameBut [.dt, .st] s s.tick := by
  intro p hp; cases p <;> simp_all [SamePart]

theorem sameBut_keyRefresh (s : State) (m : Word) : SameBut [.keys, .lastKey] s (s.keyRefresh m) := by
  intro p hp; cases p <;> simp_all [SamePart]

end Sys2Proof.Machine
end

