-- ==== Sys2Proof/Laws/PerInstr.lean ====
section
/-! SUPPORT. One law per instruction: the word of every instruction matches its row of spec/opcode_table.json. -/

namespace Sys2Proof

theorem formatNNN_and_family (f : BitVec 4) (nnn : Addr) : formatNNN f nnn &&& 0xF000 = formatNNN f 0 := by
  apply BitVec.eq_of_getLsbD_eq
  intro k hk
  rw [BitVec.getLsbD_and, formatNNN_getLsbD, formatNNN_getLsbD]
  interval_cases k <;> simp

theorem formatXNN_and_family (f : BitVec 4) (x : Reg) (nn : Byte) :
    formatXNN f x nn &&& 0xF000 = formatXNN f 0 0 := by
  apply BitVec.eq_of_getLsbD_eq
  intro k hk
  rw [BitVec.getLsbD_and, formatXNN_getLsbD, formatXNN_getLsbD]
  interval_cases k <;> simp [nibbleOfIndex]

theorem formatXNN_and_selector (f : BitVec 4) (x : Reg) (nn : Byte) :
    formatXNN f x nn &&& 0xF0FF = formatXNN f 0 nn := by
  apply BitVec.eq_of_getLsbD_eq
  intro k hk
  rw [BitVec.getLsbD_and, formatXNN_getLsbD, formatXNN_getLsbD]
  interval_cases k <;> simp [nibbleOfIndex]

theorem formatXYN_and_family (f : BitVec 4) (x y : Reg) (n : BitVec 4) :
    formatXYN f x y n &&& 0xF000 = formatXYN f 0 0 0 := by
  apply BitVec.eq_of_getLsbD_eq
  intro k hk
  rw [BitVec.getLsbD_and, formatXYN_getLsbD, formatXYN_getLsbD]
  interval_cases k <;> simp [nibbleOfIndex]

theorem formatXYN_and_selector (f : BitVec 4) (x y : Reg) (n : BitVec 4) :
    formatXYN f x y n &&& 0xF00F = formatXYN f 0 0 n := by
  apply BitVec.eq_of_getLsbD_eq
  intro k hk
  rw [BitVec.getLsbD_and, formatXYN_getLsbD, formatXYN_getLsbD]
  interval_cases k <;> simp [nibbleOfIndex]

/-- The mask and the match of an instruction's row in the opcode table. -/
def opcodeRow : Instr → Word × Word
  | .clearDisplay => (0xFFFF, 0x00E0)
  | .ret => (0xFFFF, 0x00EE)
  | .callNative _ => (0xF000, 0x0000)
  | .jump _ => (0xF000, 0x1000)
  | .call _ => (0xF000, 0x2000)
  | .skipIfEqualImmediate _ _ => (0xF000, 0x3000)
  | .skipIfNotEqualImmediate _ _ => (0xF000, 0x4000)
  | .skipIfRegistersEqual _ _ => (0xF000, 0x5000)
  | .loadImmediate _ _ => (0xF000, 0x6000)
  | .addImmediate _ _ => (0xF000, 0x7000)
  | .copy _ _ => (0xF00F, 0x8000)
  | .or _ _ => (0xF00F, 0x8001)
  | .and _ _ => (0xF00F, 0x8002)
  | .xor _ _ => (0xF00F, 0x8003)
  | .add _ _ => (0xF00F, 0x8004)
  | .sub _ _ => (0xF00F, 0x8005)
  | .shiftRight _ _ => (0xF00F, 0x8006)
  | .subReverse _ _ => (0xF00F, 0x8007)
  | .shiftLeft _ _ => (0xF00F, 0x800E)
  | .skipIfRegistersNotEqual _ _ => (0xF000, 0x9000)
  | .setIndex _ => (0xF000, 0xA000)
  | .jumpWithOffset _ => (0xF000, 0xB000)
  | .loadRandomMasked _ _ => (0xF000, 0xC000)
  | .drawSprite _ _ _ => (0xF000, 0xD000)
  | .skipIfKeyPressed _ => (0xF0FF, 0xE09E)
  | .skipIfKeyNotPressed _ => (0xF0FF, 0xE0A1)
  | .loadFromDelayTimer _ => (0xF0FF, 0xF007)
  | .awaitKey _ => (0xF0FF, 0xF00A)
  | .loadDelayTimer _ => (0xF0FF, 0xF015)
  | .loadSoundTimer _ => (0xF0FF, 0xF018)
  | .addToIndex _ => (0xF0FF, 0xF01E)
  | .loadFontAddress _ => (0xF0FF, 0xF029)
  | .storeBCD _ => (0xF0FF, 0xF033)
  | .storeRegisters _ => (0xF0FF, 0xF055)
  | .loadRegisters _ => (0xF0FF, 0xF065)

end Sys2Proof

/-- The word of the instruction, masked as its row says, is the row's match. -/
def Sys2Proof.Laws.OpcodeRow.Statement (i : Sys2Proof.Instr) : Prop :=
  Sys2Proof.encode i &&& (Sys2Proof.opcodeRow i).1 = (Sys2Proof.opcodeRow i).2

theorem Sys2Proof.Laws.OpcodeRow.clearDisplay : Sys2Proof.Laws.OpcodeRow.Statement .clearDisplay := rfl

theorem Sys2Proof.Laws.OpcodeRow.ret : Sys2Proof.Laws.OpcodeRow.Statement .ret := rfl

theorem Sys2Proof.Laws.OpcodeRow.callNative (nnn : Sys2Proof.Addr) : Sys2Proof.Laws.OpcodeRow.Statement (.callNative nnn) :=
  (Sys2Proof.formatNNN_and_family _ nnn).trans rfl

theorem Sys2Proof.Laws.OpcodeRow.jump (nnn : Sys2Proof.Addr) : Sys2Proof.Laws.OpcodeRow.Statement (.jump nnn) :=
  (Sys2Proof.formatNNN_and_family _ nnn).trans rfl

theorem Sys2Proof.Laws.OpcodeRow.call (nnn : Sys2Proof.Addr) : Sys2Proof.Laws.OpcodeRow.Statement (.call nnn) :=
  (Sys2Proof.formatNNN_and_family _ nnn).trans rfl

theorem Sys2Proof.Laws.OpcodeRow.skipIfEqualImmediate (x : Sys2Proof.Reg) (nn : Sys2Proof.Byte) : Sys2Proof.Laws.OpcodeRow.Statement (.skipIfEqualImmediate x nn) :=
  (Sys2Proof.formatXNN_and_family _ x nn).trans rfl

theorem Sys2Proof.Laws.OpcodeRow.skipIfNotEqualImmediate (x : Sys2Proof.Reg) (nn : Sys2Proof.Byte) : Sys2Proof.Laws.OpcodeRow.Statement (.skipIfNotEqualImmediate x nn) :=
  (Sys2Proof.formatXNN_and_family _ x nn).trans rfl

theorem Sys2Proof.Laws.OpcodeRow.skipIfRegistersEqual (x y : Sys2Proof.Reg) : Sys2Proof.Laws.OpcodeRow.Statement (.skipIfRegistersEqual x y) :=
  (Sys2Proof.formatXYN_and_family _ x y _).trans rfl

theorem Sys2Proof.Laws.OpcodeRow.loadImmediate (x : Sys2Proof.Reg) (nn : Sys2Proof.Byte) : Sys2Proof.Laws.OpcodeRow.Statement (.loadImmediate x nn) :=
  (Sys2Proof.formatXNN_and_family _ x nn).trans rfl

theorem Sys2Proof.Laws.OpcodeRow.addImmediate (x : Sys2Proof.Reg) (nn : Sys2Proof.Byte) : Sys2Proof.Laws.OpcodeRow.Statement (.addImmediate x nn) :=
  (Sys2Proof.formatXNN_and_family _ x nn).trans rfl

theorem Sys2Proof.Laws.OpcodeRow.copy (x y : Sys2Proof.Reg) : Sys2Proof.Laws.OpcodeRow.Statement (.copy x y) :=
  (Sys2Proof.formatXYN_and_selector _ x y _).trans rfl

theorem Sys2Proof.Laws.OpcodeRow.or (x y : Sys2Proof.Reg) : Sys2Proof.Laws.OpcodeRow.Statement (.or x y) :=
  (Sys2Proof.formatXYN_and_selector _ x y _).trans rfl

theorem Sys2Proof.Laws.OpcodeRow.and (x y : Sys2Proof.Reg) : Sys2Proof.Laws.OpcodeRow.Statement (.and x y) :=
  (Sys2Proof.formatXYN_and_selector _ x y _).trans rfl

theorem Sys2Proof.Laws.OpcodeRow.xor (x y : Sys2Proof.Reg) : Sys2Proof.Laws.OpcodeRow.Statement (.xor x y) :=
  (Sys2Proof.formatXYN_and_selector _ x y _).trans rfl

theorem Sys2Proof.Laws.OpcodeRow.add (x y : Sys2Proof.Reg) : Sys2Proof.Laws.OpcodeRow.Statement (.add x y) :=
  (Sys2Proof.formatXYN_and_selector _ x y _).trans rfl

theorem Sys2Proof.Laws.OpcodeRow.sub (x y : Sys2Proof.Reg) : Sys2Proof.Laws.OpcodeRow.Statement (.sub x y) :=
  (Sys2Proof.formatXYN_and_selector _ x y _).trans rfl

theorem Sys2Proof.Laws.OpcodeRow.shiftRight (x y : Sys2Proof.Reg) : Sys2Proof.Laws.OpcodeRow.Statement (.shiftRight x y) :=
  (Sys2Proof.formatXYN_and_selector _ x y _).trans rfl

theorem Sys2Proof.Laws.OpcodeRow.subReverse (x y : Sys2Proof.Reg) : Sys2Proof.Laws.OpcodeRow.Statement (.subReverse x y) :=
  (Sys2Proof.formatXYN_and_selector _ x y _).trans rfl

theorem Sys2Proof.Laws.OpcodeRow.shiftLeft (x y : Sys2Proof.Reg) : Sys2Proof.Laws.OpcodeRow.Statement (.shiftLeft x y) :=
  (Sys2Proof.formatXYN_and_selector _ x y _).trans rfl

theorem Sys2Proof.Laws.OpcodeRow.skipIfRegistersNotEqual (x y : Sys2Proof.Reg) : Sys2Proof.Laws.OpcodeRow.Statement (.skipIfRegistersNotEqual x y) :=
  (Sys2Proof.formatXYN_and_family _ x y _).trans rfl

theorem Sys2Proof.Laws.OpcodeRow.setIndex (nnn : Sys2Proof.Addr) : Sys2Proof.Laws.OpcodeRow.Statement (.setIndex nnn) :=
  (Sys2Proof.formatNNN_and_family _ nnn).trans rfl

theorem Sys2Proof.Laws.OpcodeRow.jumpWithOffset (nnn : Sys2Proof.Addr) : Sys2Proof.Laws.OpcodeRow.Statement (.jumpWithOffset nnn) :=
  (Sys2Proof.formatNNN_and_family _ nnn).trans rfl

theorem Sys2Proof.Laws.OpcodeRow.loadRandomMasked (x : Sys2Proof.Reg) (nn : Sys2Proof.Byte) : Sys2Proof.Laws.OpcodeRow.Statement (.loadRandomMasked x nn) :=
  (Sys2Proof.formatXNN_and_family _ x nn).trans rfl

theorem Sys2Proof.Laws.OpcodeRow.drawSprite (x y : Sys2Proof.Reg) (n : Fin 16) : Sys2Proof.Laws.OpcodeRow.Statement (.drawSprite x y n) :=
  (Sys2Proof.formatXYN_and_family _ x y _).trans rfl

theorem Sys2Proof.Laws.OpcodeRow.skipIfKeyPressed (x : Sys2Proof.Reg) : Sys2Proof.Laws.OpcodeRow.Statement (.skipIfKeyPressed x) :=
  (Sys2Proof.formatXNN_and_selector _ x _).trans rfl

theorem Sys2Proof.Laws.OpcodeRow.skipIfKeyNotPressed (x : Sys2Proof.Reg) : Sys2Proof.Laws.OpcodeRow.Statement (.skipIfKeyNotPressed x) :=
  (Sys2Proof.formatXNN_and_selector _ x _).trans rfl

theorem Sys2Proof.Laws.OpcodeRow.loadFromDelayTimer (x : Sys2Proof.Reg) : Sys2Proof.Laws.OpcodeRow.Statement (.loadFromDelayTimer x) :=
  (Sys2Proof.formatXNN_and_selector _ x _).trans rfl

theorem Sys2Proof.Laws.OpcodeRow.awaitKey (x : Sys2Proof.Reg) : Sys2Proof.Laws.OpcodeRow.Statement (.awaitKey x) :=
  (Sys2Proof.formatXNN_and_selector _ x _).trans rfl

theorem Sys2Proof.Laws.OpcodeRow.loadDelayTimer (x : Sys2Proof.Reg) : Sys2Proof.Laws.OpcodeRow.Statement (.loadDelayTimer x) :=
  (Sys2Proof.formatXNN_and_selector _ x _).trans rfl

theorem Sys2Proof.Laws.OpcodeRow.loadSoundTimer (x : Sys2Proof.Reg) : Sys2Proof.Laws.OpcodeRow.Statement (.loadSoundTimer x) :=
  (Sys2Proof.formatXNN_and_selector _ x _).trans rfl

theorem Sys2Proof.Laws.OpcodeRow.addToIndex (x : Sys2Proof.Reg) : Sys2Proof.Laws.OpcodeRow.Statement (.addToIndex x) :=
  (Sys2Proof.formatXNN_and_selector _ x _).trans rfl

theorem Sys2Proof.Laws.OpcodeRow.loadFontAddress (x : Sys2Proof.Reg) : Sys2Proof.Laws.OpcodeRow.Statement (.loadFontAddress x) :=
  (Sys2Proof.formatXNN_and_selector _ x _).trans rfl

theorem Sys2Proof.Laws.OpcodeRow.storeBCD (x : Sys2Proof.Reg) : Sys2Proof.Laws.OpcodeRow.Statement (.storeBCD x) :=
  (Sys2Proof.formatXNN_and_selector _ x _).trans rfl

theorem Sys2Proof.Laws.OpcodeRow.storeRegisters (x : Sys2Proof.Reg) : Sys2Proof.Laws.OpcodeRow.Statement (.storeRegisters x) :=
  (Sys2Proof.formatXNN_and_selector _ x _).trans rfl

theorem Sys2Proof.Laws.OpcodeRow.loadRegisters (x : Sys2Proof.Reg) : Sys2Proof.Laws.OpcodeRow.Statement (.loadRegisters x) :=
  (Sys2Proof.formatXNN_and_selector _ x _).trans rfl
end

