-- ==== Sys2Proof/Laws/Step.lean ====
section
/-! SUPPORT. What an instruction and a step can answer, said once. -/

namespace Sys2Proof.Machine

/-- An instruction answers a next state: completed, with the result OK put on some state, or raised, with the error put
on the state it was given. -/
theorem exec_shape (i : Instr) (s : State) :
    (∃ (u : State) (d : Option Diagnostic), exec i s = .next (u.setResult (.ok d))) ∨ (∃ k, exec i s = .next (s.withError k)) := by
  cases i
  case ret =>
    rcases s.pop_cases with ⟨h, hp⟩ | ⟨-, hp⟩
    · exact .inl ⟨_, _, by simp only [exec, execReturn, hp]; rfl⟩
    · exact .inr ⟨_, by simp only [exec, execReturn, hp]; rfl⟩
  case call nnn =>
    rcases s.push_cases s.pc with ⟨h, hp⟩ | ⟨-, hp⟩
    · exact .inl ⟨_, _, by simp only [exec, execCall, hp]; rfl⟩
    · exact .inr ⟨_, by simp only [exec, execCall, hp]; rfl⟩
  case drawSprite x y n =>
    cases hr : s.indexInRange n.val
    · exact .inr ⟨_, by simp only [exec, execDrawSprite, hr]; rfl⟩
    · exact .inl ⟨_, _, by simp only [exec, execDrawSprite, hr]; rfl⟩
  case storeBCD x =>
    cases hr : s.indexInRange 3
    · exact .inr ⟨_, by simp only [exec, execStoreBCD, hr]; rfl⟩
    · exact .inl ⟨_, _, by simp only [exec, execStoreBCD, hr]; rfl⟩
  case storeRegisters x =>
    cases hr : s.indexInRange (x.val + 1)
    · exact .inr ⟨_, by simp only [exec, execStoreRegisters, hr]; rfl⟩
    · exact .inl ⟨_, _, by simp only [exec, execStoreRegisters, hr]; rfl⟩
  case loadRegisters x =>
    cases hr : s.indexInRange (x.val + 1)
    · exact .inr ⟨_, by simp only [exec, execLoadRegisters, hr]; rfl⟩
    · exact .inl ⟨_, _, by simp only [exec, execLoadRegisters, hr]; rfl⟩
  case skipIfKeyPressed x =>
    cases hk : s.keyDown (s.getV x)
    · exact .inr ⟨_, by simp only [exec, execSkipIfKeyPressed, hk]; rfl⟩
    · exact .inl ⟨_, _, by simp only [exec, execSkipIfKeyPressed, hk]; rfl⟩
  case skipIfKeyNotPressed x =>
    cases hk : s.keyDown (s.getV x)
    · exact .inr ⟨_, by simp only [exec, execSkipIfKeyNotPressed, hk]; rfl⟩
    · exact .inl ⟨_, _, by simp only [exec, execSkipIfKeyNotPressed, hk]; rfl⟩
  case awaitKey x =>
    cases hk : s.lastKey
    · exact .inl ⟨_, _, by simp only [exec, execAwaitKey, hk]; rfl⟩
    · exact .inl ⟨_, _, by simp only [exec, execAwaitKey, hk]; rfl⟩
  all_goals exact .inl ⟨_, _, rfl⟩

/-- A step that may fetch executes the word fetched, with pc advanced, and ends. -/
theorem stepWith_of_canFetch (rnd : Byte) {s : State} (h : s.pc.toNat ≤ 0xFFE) :
    stepWith rnd s = finishStep (execWord s.fetchWord (s.setRnd rnd).advancePc) := by
  have hc : (s.setRnd rnd).canFetch = true := decide_eq_true h
  simp only [stepWith, hc, if_true]; rfl

/-- A step that may not fetch raises PcOutOfRange. -/
theorem stepWith_of_not_canFetch (rnd : Byte) {s : State} (h : 0xFFE < s.pc.toNat) :
    stepWith rnd s = .next ((s.setRnd rnd).withError .pcOutOfRange) := by
  have hc : (s.setRnd rnd).canFetch = false := decide_eq_false (Nat.not_le.mpr h)
  simp only [stepWith, hc]; rfl

theorem execWord_of_decoded {w : Word} {i : Instr} (h : decodeWord w = .ok i) (s : State) :
    execWord w s = exec i s := by
  simp only [execWord, h]

theorem execWord_of_unknown {w : Word} {e : DecodeError} (h : decodeWord w = .error e) (s : State) :
    execWord w s = .next (s.setResult (.ok (some (.unknownOpcode w)))) := by
  simp only [execWord, h]; rfl

/-- What a raising instruction leaves: the state it was given, with the error put on it. -/
theorem exec_raised {i : Instr} {s t : State} {k : ErrorKind} (h : exec i s = .next t) (hr : t.result = .err k) :
    t = s.withError k := by
  rcases exec_shape i s with ⟨u, d, h'⟩ | ⟨k', h'⟩ <;> rw [h'] at h <;> cases h
  · simp at hr
  · simp at hr; rw [hr]

/-- The end of a step changes the timers alone. -/
theorem sameBut_endStep (s : State) : SameBut [.dt, .st] s s.endStep := by
  rw [State.endStep_eq]
  split
  · exact sameBut_tick s
  · exact SameBut.refl _ s

theorem countDown_eq_afterTick (b : Byte) : countDown b = afterTick b := by
  have h : ∀ b : Byte, countDown b = afterTick b := by decide
  exact h b

/-- What a step can do: raise PcOutOfRange, run a word that does not decode, or run a decoded instruction. -/
theorem stepWith_cases {rnd : Byte} {s t : State} (h : stepWith rnd s = .next t) :
    (0xFFE < s.pc.toNat ∧ t = (s.setRnd rnd).withError .pcOutOfRange) ∨
    (s.pc.toNat ≤ 0xFFE ∧ (∃ e, decodeWord s.fetchWord = .error e) ∧
      t = ((s.setRnd rnd).advancePc.setResult (.ok (some (.unknownOpcode s.fetchWord)))).endStep) ∨
    (s.pc.toNat ≤ 0xFFE ∧ ∃ i u, decodeWord s.fetchWord = .ok i ∧
      exec i (s.setRnd rnd).advancePc = .next u ∧ t = u.endStep) := by
  by_cases hpc : s.pc.toNat ≤ 0xFFE
  · rw [stepWith_of_canFetch rnd hpc] at h
    cases hd : decodeWord s.fetchWord with
    | error e => rw [execWord_of_unknown hd] at h; cases h; exact .inr (.inl ⟨hpc, ⟨e, rfl⟩, rfl⟩)
    | ok i =>
      rw [execWord_of_decoded hd] at h
      rcases exec_shape i (s.setRnd rnd).advancePc with ⟨u, d, h'⟩ | ⟨k, h'⟩ <;> rw [h'] at h <;> cases h <;>
        exact .inr (.inr ⟨hpc, i, _, rfl, h', rfl⟩)
  · rw [stepWith_of_not_canFetch rnd (by omega)] at h; cases h; exact .inl ⟨by omega, rfl⟩

/-- The word placed at pc is the word fetched there. -/
theorem State.placeWord_fetchWord (s : State) (w : Word) : (s.placeWord w).fetchWord = w := by
  have h1 : (s.placeWord w).readMem s.pc.toNat = highByte w := by
    simp [placeWord, Memory.read_writeBytes]
  have h2 : (s.placeWord w).readMem (s.pc.toNat + 1) = lowByte w := by
    simp [placeWord, Memory.read_writeBytes]
  show wordOfBytes ((s.placeWord w).readMem s.pc.toNat) ((s.placeWord w).readMem (s.pc.toNat + 1)) = w
  rw [h1, h2, wordOfBytes_bytes]

end Sys2Proof.Machine
end

