-- ==== Sys2Proof/Tests/Slice0.lean ====
section
/-! SUPPORT. The model's own tests. Expected values are from spec/95_test_vectors.md (the vector's id is named) or from
the rule named; words are written from spec/30_encoding.md R73 and R76. Then a witness for the hypotheses of every
statement that has some. -/

namespace Sys2Proof.Machine.Test

/-- The state a result answers. -/
def nextOf : Result → Option State
  | .next s => some s
  | _ => none

/-- The state after one step that runs the given word. -/
def runWord (w : Nat) (s : State) : Option State := nextOf (step (s.withFetchWord 16 w))

/-- A value of the state after one step that runs the given word. -/
def after {α : Type} (w : Nat) (s : State) (f : State → α) : Option α := (runWord w s).map f

/-- Reset with V[0] and V[1] given. -/
def v01 (a b : Byte) : State := (State.reset.setV 0 a).setV 1 b

/-- A state with other parameters. -/
def withConfig (s : State) (t : TimerTickMode) (k : KeyIndexPolicy) (r : ShiftOperandReading) : State :=
  { s with config := { s.config with timerTickMode := t, keyIndexPolicy := k, shiftOperandReading := r } }

/-- A state with bytes stored at an address. -/
def withBytes (s : State) (a : Nat) (bs : List Byte) : State := s.setMem (Memory.writeBytes s.mem a bs)

/-! ### Well-formedness: the two ill-formed terms, one for each check, are refused. -/

theorem test_callNative_00E0_illFormed : (Instr.callNative 0x0E0).wellFormed = false := by decide
theorem test_callNative_00EE_illFormed : (Instr.callNative 0x0EE).wellFormed = false := by decide
theorem test_callNative_0E1_wellFormed : (Instr.callNative 0x0E1).wellFormed = true := by decide

/-! ### Decoding: every constructor, its word written out bit by bit from R73 and R76. -/

theorem test_decode_family0 :
    decodeWord 0b0000000011100000 = .ok .clearDisplay ∧ decodeWord 0b0000000011101110 = .ok .ret ∧
    decodeWord 0b0000000100100011 = .ok (.callNative 0x123) ∧ decodeWord 0b0000111011100000 = .ok (.callNative 0xEE0) := by
  decide

theorem test_decode_addresses :
    decodeWord 0b0001101010111100 = .ok (.jump 0xABC) ∧ decodeWord 0b0010111111111110 = .ok (.call 0xFFE) ∧
    decodeWord 0b1010000100100011 = .ok (.setIndex 0x123) ∧
    decodeWord 0b1011001100000000 = .ok (.jumpWithOffset 0x300) := by
  decide

theorem test_decode_immediates :
    decodeWord 0b0011101000101011 = .ok (.skipIfEqualImmediate 0xA 0x2B) ∧
    decodeWord 0b0100101000101011 = .ok (.skipIfNotEqualImmediate 0xA 0x2B) ∧
    decodeWord 0b0110110001111101 = .ok (.loadImmediate 0xC 0x7D) ∧
    decodeWord 0b0111110001111101 = .ok (.addImmediate 0xC 0x7D) ∧
    decodeWord 0b1100010111110000 = .ok (.loadRandomMasked 5 0xF0) := by
  decide

theorem test_decode_twoRegisters :
    decodeWord 0b0101000100101111 = .ok (.skipIfRegistersEqual 1 2) ∧
    decodeWord 0b1001101010110101 = .ok (.skipIfRegistersNotEqual 0xA 0xB) ∧
    decodeWord 0b1101000100101111 = .ok (.drawSprite 1 2 15) := by
  decide

theorem test_decode_family8 :
    decodeWord 0b1000101010110000 = .ok (.copy 0xA 0xB) ∧ decodeWord 0b1000101010110001 = .ok (.or 0xA 0xB) ∧
    decodeWord 0b1000101010110010 = .ok (.and 0xA 0xB) ∧ decodeWord 0b1000101010110011 = .ok (.xor 0xA 0xB) ∧
    decodeWord 0b1000101010110100 = .ok (.add 0xA 0xB) ∧ decodeWord 0b1000101010110101 = .ok (.sub 0xA 0xB) ∧
    decodeWord 0b1000101010110110 = .ok (.shiftRight 0xA 0xB) ∧
    decodeWord 0b1000101010110111 = .ok (.subReverse 0xA 0xB) ∧
    decodeWord 0b1000101010111110 = .ok (.shiftLeft 0xA 0xB) := by
  decide

theorem test_decode_familyE :
    decodeWord 0b1110001110011110 = .ok (.skipIfKeyPressed 3) ∧
    decodeWord 0b1110001110100001 = .ok (.skipIfKeyNotPressed 3) := by
  decide

theorem test_decode_familyF :
    decodeWord 0b1111001100000111 = .ok (.loadFromDelayTimer 3) ∧ decodeWord 0b1111001100001010 = .ok (.awaitKey 3) ∧
    decodeWord 0b1111001100010101 = .ok (.loadDelayTimer 3) ∧ decodeWord 0b1111001100011000 = .ok (.loadSoundTimer 3) ∧
    decodeWord 0b1111001100011110 = .ok (.addToIndex 3) ∧ decodeWord 0b1111001100101001 = .ok (.loadFontAddress 3) ∧
    decodeWord 0b1111001100110011 = .ok (.storeBCD 3) ∧ decodeWord 0b1111001101010101 = .ok (.storeRegisters 3) ∧
    decodeWord 0b1111001101100101 = .ok (.loadRegisters 3) := by
  decide

/-- DEC17, DEC25, DEC27. -/
theorem test_decode_failures :
    decodeWord 0x8AB8 = .error (.unknownOpcode 0x8AB8) ∧ decodeWord 0x8ABF = .error (.unknownOpcode 0x8ABF) ∧
    decodeWord 0xE3A0 = .error (.unknownOpcode 0xE3A0) ∧ decodeWord 0xF31F = .error (.unknownOpcode 0xF31F) ∧
    decodeWord 0xFFFF = .error (.unknownOpcode 0xFFFF) := by
  decide

theorem test_decode_bytes_bigEndian :
    decode [0x1A, 0xBC, 0x77] = .ok (.jump 0xABC, [0x77]) ∧ decode [0x1A] = .error .truncated := by decide

theorem test_decodeTableWord : decodeTableWord 16 0xD12F = some (.drawSprite 1 2 15) := by decide

theorem test_encode_bytes : encodeBytes (.drawSprite 1 2 15) = [0xD1, 0x2F] := by decide

/-! ### The step (STP1 to STP8). -/

theorem test_step_oddFetch :
    (nextOf (step (withBytes (State.reset.setPc 0x201) 0x201 [0x60, 0x42]))).map (fun t => (t.getV 0, t.pc)) =
      some (0x42, 0x203) := by decide

theorem test_step_pcOutOfRange :
    (nextOf (step ((State.reset.setPc 0xFFF).setDt 5))).map (fun t => (t.pc, t.dt, t.result)) =
      some (0xFFF, 5, .err .pcOutOfRange) := by decide

theorem test_step_unknownOpcode :
    after 0x8008 ((State.reset.setDt 3).setSt 1) (fun t => (t.pc, t.dt, t.st, t.result)) =
      some (0x202, 2, 0, .ok (some (.unknownOpcode 0x8008))) := by decide

theorem test_step_hostTick_noTick :
    after 0x0123 ((withConfig State.reset .hostTick .fault .sequential).setDt 3) (fun t => t.dt) = some 3 := by decide

/-! ### Control flow (CF1 to CF19). -/

theorem test_return_CF1 :
    after 0x00EE { State.reset with sp := 1, stack := State.reset.stack.set 0 0x0204 }
      (fun t => (t.pc, t.sp, t.stack.get 0)) = some (0x0204, 0, 0x0204) := by decide

/-- STP8: no tick on an error. -/
theorem test_return_underflow :
    after 0x00EE (State.reset.setDt 3) (fun t => (t.pc, t.sp, t.dt, t.result, t.faulted)) =
      some (0x202, 0, 3, .err .stackUnderflow, some .stackUnderflow) := by decide

theorem test_callNative_STP5 :
    after 0x0123 (State.reset.setDt 3) (fun t => (t.pc, t.dt, t.result)) =
      some (0x202, 2, .ok (some (.nativeCall 0x123))) := by decide

theorem test_jump_CF6 : after 0x1201 State.reset (fun t => t.pc) = some 0x0201 := by decide

theorem test_call_CF3 :
    after 0x2210 State.reset (fun t => (t.stack.get 0, t.sp, t.pc)) = some (0x0202, 1, 0x0210) := by decide

theorem test_call_overflow_CF4 :
    after 0x2210 { State.reset with sp := 16 } (fun t => (t.pc, t.sp, t.stack, t.result)) =
      some (0x202, 16, State.reset.stack, .err .stackOverflow) := by decide

theorem test_jumpWithOffset_CF9 : after 0xBFFF (v01 0xFF 0) (fun t => t.pc) = some 0x10FE := by decide

theorem test_skipIfEqualImmediate_CF10_CF11 :
    after 0x332A (State.reset.setV 3 0x2A) (fun t => t.pc) = some 0x204 ∧
    after 0x332A (State.reset.setV 3 0x2B) (fun t => t.pc) = some 0x202 := by decide

theorem test_skipIfNotEqualImmediate_CF12 : after 0x432A (State.reset.setV 3 0x2B) (fun t => t.pc) = some 0x204 := by
  decide

theorem test_skipIfRegistersEqual_CF14 :
    after 0x5127 ((State.reset.setV 1 7).setV 2 7) (fun t => t.pc) = some 0x204 := by decide

theorem test_skipIfRegistersNotEqual_CF15_CF16 :
    after 0x9330 State.reset (fun t => t.pc) = some 0x202 ∧
    after 0x9120 ((State.reset.setV 1 7).setV 2 8) (fun t => t.pc) = some 0x204 := by decide

/-! ### ALU (ALU1 to ALU42). -/

theorem test_loadImmediate_ALU1 :
    after 0x60FF (State.reset.setV 15 0x55) (fun t => (t.getV 0, t.getV 15)) = some (0xFF, 0x55) := by decide

theorem test_addImmediate_ALU2 :
    after 0x7001 ((v01 0xFF 0).setV 15 0x55) (fun t => (t.getV 0, t.getV 15)) = some (0x00, 0x55) := by decide

theorem test_copy_ALU5 : after 0x8010 (v01 0 0x5A) (fun t => (t.getV 0, t.getV 1)) = some (0x5A, 0x5A) := by decide

theorem test_or_ALU6 :
    after 0x8011 ((v01 0xF0 0x0F).setV 15 0x55) (fun t => (t.getV 0, t.getV 15)) = some (0xFF, 0x55) := by decide

theorem test_and_ALU7 : after 0x8012 (v01 0xF3 0x3F) (fun t => t.getV 0) = some 0x33 := by decide

theorem test_xor_ALU8 : after 0x8013 (v01 0xFF 0x0F) (fun t => t.getV 0) = some 0xF0 := by decide

theorem test_add_ALU12 : after 0x8014 (v01 0xFF 0xFF) (fun t => (t.getV 0, t.getV 15)) = some (0xFE, 1) := by decide

/-- ALU14: the flag wins over the sum. -/
theorem test_add_intoFlag :
    after 0x8F14 ((State.reset.setV 15 0x10).setV 1 0xF5) (fun t => t.getV 15) = some 0x01 := by decide

theorem test_sub_ALU18 : after 0x8015 (v01 0x03 0x05) (fun t => (t.getV 0, t.getV 15)) = some (0xFE, 0) := by decide

theorem test_sub_equal_ALU19 : after 0x8015 (v01 0x05 0x05) (fun t => (t.getV 0, t.getV 15)) = some (0x00, 1) := by
  decide

theorem test_subReverse_ALU23 : after 0x8017 (v01 0x03 0x05) (fun t => (t.getV 0, t.getV 15)) = some (0x02, 1) := by
  decide

theorem test_subReverse_ALU26 :
    after 0x8F17 ((State.reset.setV 15 0x05).setV 1 0x03) (fun t => t.getV 15) = some 0x00 := by decide

theorem test_shiftRight_ALU29_ALU30 :
    after 0x8016 (v01 0 0xFF) (fun t => (t.getV 0, t.getV 15)) = some (0x7F, 1) ∧
    after 0x8F16 (v01 0 0x05) (fun t => t.getV 15) = some 0x02 := by decide

/-- ALU31: both readings. -/
theorem test_shiftRight_flagOperand :
    after 0x80F6 (State.reset.setV 15 0x03) (fun t => (t.getV 0, t.getV 15)) = some (0x00, 1) ∧
    after 0x80F6 (withConfig (State.reset.setV 15 0x03) .perStep .fault .latched)
      (fun t => (t.getV 0, t.getV 15)) = some (0x01, 1) := by decide

theorem test_shiftLeft_ALU33 : after 0x801E (v01 0 0x81) (fun t => (t.getV 0, t.getV 15)) = some (0x02, 1) := by decide

/-- ALU37: both readings. -/
theorem test_shiftLeft_flagOperand :
    after 0x80FE (State.reset.setV 15 0xC0) (fun t => (t.getV 0, t.getV 15)) = some (0x02, 1) ∧
    after 0x80FE (withConfig (State.reset.setV 15 0xC0) .perStep .fault .latched)
      (fun t => (t.getV 0, t.getV 15)) = some (0x80, 1) := by decide

/-- ALU39, on the random input of the instruction's own step. -/
theorem test_loadRandomMasked_ALU39 :
    (nextOf (exec (.loadRandomMasked 0 0xF0) (State.reset.setRnd 0xAB))).map (fun t => t.getV 0) = some 0xA0 := by decide

/-- ALU39 through the step that takes the random byte. -/
theorem test_loadRandomMasked_step :
    (nextOf (stepWith 0xAB (State.reset.withFetchWord 16 0xC0F0))).map (fun t => t.getV 0) = some 0xA0 := by decide

/-! ### Display (DSP1 to DSP13). -/

theorem test_clearDisplay_DSP12 :
    after 0x00E0 ((State.reset.setDisp (Vector.replicate 32 0xFF)).setV 15 0x55) (fun t => (t.disp, t.getV 15)) =
      some (Vector.replicate 32 0, 0x55) := by decide

/-- DSP1. -/
theorem test_drawSprite_onePixel :
    after 0xD011 (withBytes ((v01 0x45 0x22).setI 0x300) 0x300 [0x80])
      (fun t => (t.pixel 2 5, t.pixel 2 4, t.pixel 2 6, t.getV 15, t.i)) = some (true, false, false, 0, 0x300) := by decide

/-- DSP11: the pixel at the right edge collides, the columns past it are discarded. -/
theorem test_drawSprite_edgeCollision :
    after 0xD011 (withBytes (((v01 0x3F 0).setI 0x300).setDisp ((Vector.replicate 32 0).set 0 1)) 0x300 [0xFF])
      (fun t => (t.pixel 0 63, t.pixel 0 0, t.getV 15)) = some (false, false, 1) := by decide

/-- DSP9: the byte of the clipped third row at 0x1000 still counts. -/
theorem test_drawSprite_outOfRange :
    after 0xD013 ((v01 0 0x1F).setI 0xFFE) (fun t => (t.disp, t.result)) =
      some (State.reset.disp, .err .memOutOfRange) := by decide

/-! ### Index register and memory (MEM1 to MEM15). -/

theorem test_setIndex_MEM2 : after 0xAFFF State.reset (fun t => t.i) = some 0x0FFF := by decide

theorem test_addToIndex_MEM3_MEM4 :
    after 0xF01E ((v01 1 0).setI 0xFFF) (fun t => (t.i, t.getV 15)) = some (0x1000, 0) ∧
    after 0xF01E ((v01 2 0).setI 0xFFFF) (fun t => t.i) = some 0x0001 := by decide

theorem test_loadFontAddress_MEM5 :
    after 0xF029 (v01 0x1A 0) (fun t => t.i) = some 0x032 ∧ after 0xF029 (v01 0xFF 0) (fun t => t.i) = some 0x04B := by
  decide

theorem test_storeBCD_MEM6 :
    after 0xF033 ((v01 254 0).setI 0x300) (fun t => (Memory.readBytes t.mem 0x300 3, t.i)) =
      some ([2, 5, 4], 0x300) := by decide

theorem test_storeBCD_MEM8 :
    after 0xF033 ((v01 123 0).setI 0xFFE) (fun t => (t.readMem 0xFFE, t.result)) =
      some (0, .err .memOutOfRange) := by decide

/-- MEM15: the font region is writable. -/
theorem test_storeRegisters_MEM15 : after 0xF055 (v01 0xAA 0) (fun t => (t.readMem 0, t.readMem 1)) = some (0xAA, 0x90) := by
  decide

theorem test_storeRegisters_two :
    after 0xF155 ((v01 0x11 0x22).setI 0xFFE) (fun t => (t.readMem 0xFFE, t.readMem 0xFFF, t.i)) =
      some (0x11, 0x22, 0xFFE) := by decide

/-- MEM14: glyph 0 of the default FONT. -/
theorem test_loadRegisters_MEM14 :
    after 0xF465 State.reset (fun t => t.v.toList.take 6) = some [0xF0, 0x90, 0x90, 0x90, 0xF0, 0] := by decide

theorem test_loadRegisters_MEM13 :
    after 0xF065 ((v01 7 0).setI 0x1000) (fun t => (t.getV 0, t.result)) = some (7, .err .memOutOfRange) := by decide

/-! ### Keys and timers (K1 to K12, T1 to T7). -/

theorem test_skipIfKeyPressed_K1_K2 :
    after 0xE09E (({ State.reset with keys := 0x0008 } : State).setV 0 3) (fun t => t.pc) = some 0x204 ∧
    after 0xE09E (({ State.reset with keys := 0x0008 } : State).setV 0 2) (fun t => t.pc) = some 0x202 := by decide

/-- K4, K5, K6. -/
theorem test_skipIfKeyPressed_policies :
    after 0xE09E (v01 0x10 0) (fun t => (t.pc, t.result)) = some (0x202, .err .keyIndexOutOfRange) ∧
    after 0xE09E (withConfig { v01 0x10 0 with keys := 1 } .perStep .maskLowNibble .sequential) (fun t => t.pc) =
      some 0x204 ∧
    after 0xE09E (withConfig (v01 0x10 0) .perStep .notPressed .sequential) (fun t => t.pc) = some 0x202 := by decide

theorem test_skipIfKeyNotPressed_K3_K6 :
    after 0xE0A1 State.reset (fun t => t.pc) = some 0x204 ∧
    after 0xE0A1 (withConfig (v01 0x10 0) .perStep .notPressed .sequential) (fun t => t.pc) = some 0x204 := by decide

/-- K11: the roll-back is an OK step, and the timers tick. -/
theorem test_awaitKey_K11 :
    after 0xF30A (State.reset.setDt 2) (fun t => (t.pc, t.getV 3, t.dt, t.result)) = some (0x200, 0, 1, .ok none) := by
  decide

/-- K12: the key is not consumed. -/
theorem test_awaitKey_K12 :
    after 0xF00A { State.reset with lastKey := some 7 } (fun t => (t.getV 0, t.pc, t.lastKey)) =
      some (7, 0x202, some 7) := by decide

theorem test_keyRefresh_K7_K9 :
    (State.keyRefresh 0x0024 { State.reset with keys := 0x0004 }).lastKey = some 5 ∧
    (State.keyRefresh 0x0024 (State.keyRefresh 0x0024 State.reset)).lastKey = none := by decide

theorem test_loadFromDelayTimer_T5 :
    after 0xF107 (State.reset.setDt 2) (fun t => (t.getV 1, t.dt)) = some (2, 1) := by decide

theorem test_loadDelayTimer_T3 :
    after 0xF015 (v01 3 0) (fun t => t.dt) = some 2 ∧
    after 0xF015 (withConfig (v01 3 0) .hostTick .fault .sequential) (fun t => t.dt) = some 3 := by decide

theorem test_loadSoundTimer_T6 : after 0xF018 (v01 1 0) (fun t => (t.st, t.dt)) = some (0, 0) := by decide

theorem test_tick_T2 : (State.tick (State.reset.setDt 0xFF)).dt = 0xFE ∧ (State.tick (State.reset.setDt 0xFF)).st = 0 := by
  decide

/-! ### Construction. -/

/-- An image is loaded at 0x200, and the font at 0x000 (R280). -/
theorem test_construct_image :
    (State.construct Config.default [0x12, 0x34]).readMem 0x201 = 0x34 ∧
    (State.construct Config.default [0x12, 0x34]).readMem 0 = 0xF0 := by decide +kernel

/-! ### Witnesses: for every statement with hypotheses, a state and operands that meet all of them together. -/

/-- A state that is not the one after reset and meets the invariant, with sp and the stack in use. -/
def used : State :=
  { v01 3 4 with sp := 2, stack := (State.reset.stack.set 0 0x202).set 1 0x1000, mem := [(0x300, 0x99)], i := 0x300 }

theorem used_inv : used.Inv := ⟨by decide, by decide, by decide⟩

/-- `used` with an instruction word at its pc. -/
def at0 (w : Nat) : State := used.withFetchWord 16 w

theorem witness_DecodeOfEncode : (Instr.callNative 0xFFF).wellFormed = true ∧ (Instr.loadImmediate 15 0xFF).wellFormed = true := by
  decide

theorem witness_EncodeOfDecode :
    decodeWord 0x512F = .ok (.skipIfRegistersEqual 1 2) ∧ decodeWord 0xF365 = .ok (.loadRegisters 3) := by decide

theorem witness_FamilyZero : (0x0EE0 : Word).extractLsb' 12 4 = 0x0 ∧ (0x0EE0 : Word) ≠ 0x00E0 ∧ (0x0EE0 : Word) ≠ 0x00EE := by
  decide

/-- One word for each clause; the clauses of a family exclude each other by their low byte. -/
theorem witness_FamilyE : [(0xE39E : Word), 0xE3A1, 0xE3A0, 0xE39F].all
    (fun w => (3 : Reg).val == (w.extractLsb' 8 4).toNat && w.extractLsb' 12 4 == 0xE) = true := by
  decide

theorem witness_FamilyF : [(0xF307 : Word), 0xF30A, 0xF315, 0xF318, 0xF31E, 0xF329].all
    (fun w => (3 : Reg).val == (w.extractLsb' 8 4).toNat && w.extractLsb' 12 4 == 0xF) = true := by
  decide

theorem witness_FamilyF_rest : [(0xF333 : Word), 0xF355, 0xF365, 0xF306, 0xF366].all
    (fun w => (3 : Reg).val == (w.extractLsb' 8 4).toNat && w.extractLsb' 12 4 == 0xF) = true := by
  decide

theorem witness_DecodeFails : decodeWord 0x8AB8 = .error (.unknownOpcode 0x8AB8) := by decide

/-- An image of one byte: the first and the last address of each clause; and one longer than 3584 bytes, whose last
loaded byte is at 0xFFF. -/
theorem witness_Construct :
    (0 : Nat) < min [(0x12 : Byte)].length 3584 ∧
    (∀ a ∈ [0x50, 0x1FF, 0x201, 4095],
      0x50 ≤ a ∧ a < 4096 ∧ (a < 0x200 ∨ 0x200 + min [(0x12 : Byte)].length 3584 ≤ a)) ∧
    3583 < min (List.replicate 3585 (0x12 : Byte)).length 3584 ∧ used.config = State.reset.config := by
  rw [List.length_replicate]; decide

/-- An image of 3585 bytes fills memory to its end and is cut by its last byte (R281). -/
theorem test_construct_longImage (l : List Byte) (hl : l.length = 3583) :
    (State.construct Config.default (l ++ [0x22, 0x33])).readMem 0xFFF = 0x22 := by
  have h : (l ++ [0x22, 0x33]).take maxImage = l ++ [0x22] := by
    rw [List.take_append, List.take_of_length_le (by rw [hl]; decide), hl]; rfl
  show Memory.read (Memory.writeBytes _ entry ((l ++ [0x22, 0x33]).take maxImage)) 0xFFF = 0x22
  rw [h, Memory.read_writeBytes, if_pos (by simp [hl, entry])]
  simp [hl, entry]

theorem witness_StepKeepsTheInvariant : used.Inv ∧ ∃ t, step used = .next t := ⟨used_inv, _, rfl⟩

theorem witness_HostEvents :
    used.Inv ∧ handle (.construct [1]) used = .next { State.construct used.config [1] with draws := used.draws } ∧
    (∃ t, handle (.step 7) used = .next t) ∧ (∃ t, handle (.keyRefresh 3) used = .next t) ∧
    (∃ t, handle .observe used = .next t) := by
  refine ⟨used_inv, ?_, ⟨_, rfl⟩, ⟨_, rfl⟩, ⟨_, rfl⟩⟩
  simp only [handle]

theorem witness_TimerTickEvent :
    (withConfig used .hostTick .fault .sequential).Inv ∧
    ∃ t, handle .timerTick (withConfig used .hostTick .fault .sequential) = .next t :=
  ⟨⟨by decide, by decide, by decide⟩, ⟨_, rfl⟩⟩

theorem witness_MemWrite : (0xFFE : Nat) ≠ 0xFFF ∧ Memory.wf [(0x300, 0x99)] = true ∧ (0xFFF : Nat) < 4096 := by decide

theorem witness_CanonicalMemories :
    ∃ m m' : Memory, Memory.wf m = true ∧ Memory.wf m' = true ∧ ∀ a : Nat, a < 4096 → Memory.read m a = Memory.read m' a :=
  ⟨[(0x300, 0x99)], [(0x300, 0x99)], by decide, by decide, fun _ _ => rfl⟩

theorem witness_FetchSeesStored :
    ∃ t, exec (.storeRegisters 1) used = .next t ∧ t.result = .ok none ∧ (0 : Nat) < (1 : Reg).val ∧
      (0x300 : Word).toNat = used.i.toNat + 0 := ⟨_, rfl, by decide, by decide, by decide⟩

theorem witness_StepRuns :
    (at0 0x6042).pc.toNat ≤ 0xFFE ∧ decodeWord (at0 0x6042).fetchWord = .ok (.loadImmediate 0 0x42) ∧
    (∃ t, exec (.loadImmediate 0 0x42) { at0 0x6042 with rnd := 7, pc := (at0 0x6042).pc + 2 } = .next t) ∧
    ∃ t, exec (.loadImmediate 0 0x42)
      { at0 0x6042 with rnd := Config.rndByte 0, draws := 1, pc := (at0 0x6042).pc + 2 } = .next t :=
  ⟨by decide, by decide, ⟨_, rfl⟩, ⟨_, rfl⟩⟩

theorem witness_DecodeFailureStep :
    (at0 0x8008).pc.toNat ≤ 0xFFE ∧ decodeWord (at0 0x8008).fetchWord = .error (.unknownOpcode 0x8008) := by decide

theorem witness_FetchOutside : 0xFFE < (used.setPc 0xFFF).pc.toNat := by decide

/-- Both kinds of erring step: of the fetch, and of an instruction. -/
theorem witness_ErringStep :
    (∃ t, stepWith 7 (used.setPc 0xFFF) = .next t ∧ t.result = .err .pcOutOfRange) ∧
    (∃ t, stepWith 7 ((at0 0xF055).setI 0x1000) = .next t ∧ t.result = .err .memOutOfRange) :=
  ⟨⟨_, rfl, by decide⟩, ⟨_, rfl, by decide⟩⟩

/-- Each error at the boundary of its condition. -/
theorem witness_InstructionsRaise :
    (∃ t, exec (.call 0x300) { used with sp := 16 } = .next t ∧ t.result = .err .stackOverflow) ∧
    (∃ t, exec .ret { used with sp := 0 } = .next t ∧ t.result = .err .stackUnderflow) ∧
    (∃ t, exec (.drawSprite 0 1 1) (used.setI 0x1000) = .next t ∧ t.result = .err .memOutOfRange) ∧
    (∃ t, exec (.storeBCD 0) (used.setI 0xFFE) = .next t ∧ t.result = .err .memOutOfRange) ∧
    (∃ t, exec (.skipIfKeyPressed 0) (used.setV 0 0x10) = .next t ∧ t.result = .err .keyIndexOutOfRange) ∧
    (∃ t, exec (.storeBCD 0) (used.setI 0xFFD) = .next t ∧ t.result = .ok none) :=
  ⟨⟨_, rfl, by decide⟩, ⟨_, rfl, by decide⟩, ⟨_, rfl, by decide⟩, ⟨_, rfl, by decide⟩, ⟨_, rfl, by decide⟩,
    ⟨_, rfl, by decide⟩⟩

theorem witness_Faulted :
    (∃ t, stepWith 7 { at0 0x1234 with faulted := some .stackOverflow } = .next t) ∧
    (∃ t, stepWith 7 ((at0 0xF055).setI 0x1000) = .next t ∧ ((at0 0xF055).setI 0x1000).faulted = none) :=
  ⟨⟨_, rfl⟩, ⟨_, rfl, by decide⟩⟩

/-- An instruction that is none of the writers named, for the statements about which instructions write which state. -/
theorem witness_OnlyWriters :
    (∃ t, exec (.addToIndex 0) used = .next t) ∧ (∃ t, exec (.jump 0x300) used = .next t) ∧
    (∀ nnn, Instr.jump 0x300 ≠ .call nnn) ∧ Instr.jump 0x300 ≠ .ret ∧ Instr.jump 0x300 ≠ .clearDisplay ∧
    (∀ x, Instr.jump 0x300 ≠ .storeBCD x ∧ Instr.jump 0x300 ≠ .storeRegisters x) ∧
    (∀ x y n, Instr.jump 0x300 ≠ .drawSprite x y n) ∧ (∀ nnn, Instr.jump 0x300 ≠ .setIndex nnn) ∧
    (∀ x, Instr.jump 0x300 ≠ .addToIndex x ∧ Instr.jump 0x300 ≠ .loadFontAddress x) ∧
    (∀ x, Instr.jump 0x300 ≠ .loadDelayTimer x) ∧ (∀ x, Instr.jump 0x300 ≠ .loadSoundTimer x) := by
  refine ⟨⟨_, rfl⟩, ⟨_, rfl⟩, ?_, ?_, ?_, ?_, ?_, ?_, ?_, ?_, ?_⟩ <;> intros <;> simp

theorem witness_aStepAnswers : ∃ t, stepWith 7 (at0 0xF018) = .next t := ⟨_, rfl⟩

theorem witness_StaleStack :
    (∀ k : Fin 16, k.val < used.sp.val → (used.stack.set 2 0xBEEF).get k = used.stack.get k) ∧
    ∃ t, stepWith 7 used = .next t := ⟨by decide, _, rfl⟩

theorem witness_Return :
    (used.sp.val = (1 : Fin 16).val + 1) ∧ (({ used with sp := 16 } : State).sp.val = (15 : Fin 16).val + 1) ∧
    (({ used with sp := 0 } : State).sp.val = 0) := by decide

theorem witness_Call :
    (({ used with sp := 0 } : State).sp.val = (0 : Fin 16).val) ∧
    (({ used with sp := 15 } : State).sp.val = (15 : Fin 16).val) ∧ (({ used with sp := 16 } : State).sp.val = 16) := by decide

theorem witness_CallNative :
    (0x0E1 : Addr) ≠ 0x0E0 ∧ (0x0E1 : Addr) ≠ 0x0EE ∧ (at0 0x00E1).pc.toNat ≤ 0xFFE ∧
    (at0 0x00E1).fetchWord = 0x0#4 ++ (0x0E1 : Addr) := by decide

theorem witness_SkipsOnAnImmediate : used.getV 0 = 3 ∧ used.getV 1 ≠ 3 := by decide

theorem witness_SkipsOnTwoRegisters : used.getV 2 = used.getV 3 ∧ used.getV 0 ≠ used.getV 1 := by decide

theorem witness_destinationIsNotTheFlagRegister : (0xE : Reg) ≠ 0xF := by decide

theorem witness_LoadRandomMasked :
    (at0 0xC0F0).pc.toNat ≤ 0xFFE ∧ (at0 0xC0F0).fetchWord = formatXNN 0xC 0 0xF0 := by decide

/-- A sprite of no rows at any I, and one whose last byte is the last of memory. -/
theorem witness_DrawSprite :
    ((0 : Fin 16).val = 0) ∧ ((used.setI 0xFF1).i.toNat + (15 : Fin 16).val - 1 ≤ 0xFFF) := by decide

/-- A collision, and a drawing without one. -/
theorem witness_DrawSprite_collision :
    (∃ t, exec (.drawSprite 0 1 1) (used.setDisp (Vector.replicate 32 0xFFFFFFFFFFFFFFFF)) = .next t ∧
      t.pixel 4 3 = false ∧ t.getV 0xF = 1) ∧
    (∃ t, exec (.drawSprite 0 1 1) used = .next t ∧ t.getV 0xF = 0) :=
  ⟨⟨_, rfl, by decide, by decide⟩, ⟨_, rfl, by decide⟩⟩

theorem witness_DrawingTwice :
    ∃ t u, (0 : Reg) ≠ 0xF ∧ (1 : Reg) ≠ 0xF ∧ exec (.drawSprite 0 1 1) used = .next t ∧ t.result = .ok none ∧
      exec (.drawSprite 0 1 1) t = .next u ∧ spriteLights used 0 1 1 4 3 = true ∧ used.pixel 4 3 = false :=
  ⟨_, _, by decide, by decide, rfl, by decide, rfl, by decide, by decide⟩

/-- The least I out of range for each access. -/
theorem witness_OutOfRange :
    0 < (1 : Fin 16).val ∧ 0xFFF < (used.setI 0x1000).i.toNat + (1 : Fin 16).val - 1 ∧
    0xFFF < (used.setI 0xFFE).i.toNat + 2 ∧ 0xFFF < (used.setI 0xFF1).i.toNat + (15 : Reg).val := by decide

/-- The greatest I in range for each access. -/
theorem witness_InRange :
    (used.setI 0xFFD).i.toNat + 2 ≤ 0xFFF ∧ (used.setI 0xFF0).i.toNat + (15 : Reg).val ≤ 0xFFF ∧
    (used.setI 0xFFF).i.toNat + (0 : Reg).val ≤ 0xFFF := by decide

theorem witness_StoreThenLoad :
    ∃ t u, exec (.storeRegisters 15) used = .next t ∧ t.result = .ok none ∧ t.i = used.i ∧
      exec (.loadRegisters 15) t = .next u := ⟨_, _, rfl, by decide, by decide, rfl⟩

/-- Key index 0xF and 0x10, the boundary, under each policy. -/
theorem witness_KeySkips :
    ((used.setV 0 0xF).getV 0).toNat ≤ 0xF ∧ 0xF < ((used.setV 0 0x10).getV 0).toNat ∧
    used.config.keyIndexPolicy = .fault ∧
    (withConfig used .perStep .maskLowNibble .sequential).config.keyIndexPolicy = .maskLowNibble ∧
    (withConfig used .perStep .notPressed .sequential).config.keyIndexPolicy = .notPressed := by decide

theorem witness_AwaitKey :
    ({ used with lastKey := some 15 } : State).lastKey = some 15 ∧ used.lastKey = none := by decide

theorem witness_BlockedAwaitKey :
    (at0 0xF00A).pc.toNat ≤ 0xFFE ∧ (at0 0xF00A).fetchWord = formatXNN 0xF 0 0x0A ∧ (at0 0xF00A).lastKey = none := by
  decide

theorem witness_TimerTransfers :
    (at0 0xF107).pc.toNat ≤ 0xFFE ∧ (at0 0xF107).fetchWord = formatXNN 0xF 1 0x07 ∧
    (at0 0xF115).fetchWord = formatXNN 0xF 1 0x15 ∧ (at0 0xF118).fetchWord = formatXNN 0xF 1 0x18 := by decide

theorem witness_Tick :
    (used.setDt 1).dt ≠ 0 ∧ used.dt = 0 ∧ (used.setSt 1).st ≠ 0 ∧ used.st = 0 ∧ used.config.timerTickMode = .perStep ∧
    (withConfig used .hostTick .fault .sequential).config.timerTickMode = .hostTick := by decide

theorem witness_StepTicks :
    (∃ t, stepWith 7 (at0 0x1234) = .next t ∧ t.result.isOk = true) ∧
    (∃ t, stepWith 7 ((at0 0xF055).setI 0x1000) = .next t ∧ t.result.isOk = false) ∧
    decodeWord (at0 0x1234).fetchWord = .ok (.jump 0x234) ∧
    decodeWord ((at0 0xF055).setI 0x1000).fetchWord = .ok (.storeRegisters 0) :=
  ⟨⟨_, rfl, by decide⟩, ⟨_, rfl, by decide⟩, by decide, by decide⟩

/-- run(n): two OK steps, and a stop at the first of two. -/
theorem witness_Run :
    (run [7, 7] (at0 0x1200)).results = [.ok none, .ok none] ∧ (run [7, 7] (at0 0x1200)).error = none ∧
    (run [7, 7] ((at0 0xFF55).setI 0xFFF)).results = [.err .memOutOfRange] ∧
    (run [7, 7] ((at0 0xFF55).setI 0xFFF)).error = some .memOutOfRange := by decide

/-- A run with an erring step, a key refresh and a step with a diagnostic: both results are observed (R106, R111). -/
theorem witness_HostRun :
    ∃ r, handleAll [.step 7, .keyRefresh 4, .step 7] { State.reset with mem := [(0x201, 0xEE), (0x203, 0x01)] } = .next r ∧
      r.results = [.err .stackUnderflow, .ok (some (.nativeCall 0x001))] ∧ r.state.lastKey = some 2 := by
  exact ⟨_, rfl, by decide, by decide⟩

end Sys2Proof.Machine.Test
end

section
/-! Family 0 of the decoder (spec/30_encoding.md R77): what each of its words decodes to. -/

namespace Sys2Proof

/-- The decoder hands the words of family 0 to `decodeFamily0`, which never fails (R77). -/
theorem decodeWord_of_family_zero {w : Word} (hF : fieldF w = 0x0) : decodeWord w = .ok (decodeFamily0 w) := by
  have family_toNat : (fieldF w).toNat = 0x0 := by simp [hF]
  simp only [decodeWord, family_toNat]

@[simp] theorem decodeFamily0_clearDisplay : decodeFamily0 0x00E0 = .clearDisplay := rfl

@[simp] theorem decodeFamily0_ret : decodeFamily0 0x00EE = .ret := rfl

theorem decodeFamily0_callNative {w : Word} (hCls : w ≠ 0x00E0) (hRet : w ≠ 0x00EE) :
    decodeFamily0 w = .callNative (fieldNNN w) := by
  rw [decodeFamily0, if_neg hCls, if_neg hRet]

/-- Settles O3: every word of family 0 goes to `decodeFamily0`, whose two full-word matches come before CallNative. -/
theorem familyZeroDecodesOnTheFullWord : Obligations.FamilyZeroDecodesOnTheFullWord := by
  unfold Obligations.FamilyZeroDecodesOnTheFullWord
  refine ⟨?clearDisplay, ?ret, ?callNative⟩
  case clearDisplay =>
    rw [decodeWord_of_family_zero (by decide), decodeFamily0_clearDisplay]
  case ret =>
    rw [decodeWord_of_family_zero (by decide), decodeFamily0_ret]
  case callNative =>
    intro w hF hCls hRet
    rw [decodeWord_of_family_zero hF, decodeFamily0_callNative hCls hRet, fieldNNN]

end Sys2Proof
end

section
/-! How an instruction completes and how a step that does nothing but report ends: the rules from which each
instruction's `Completes` and `Steps` statements follow. -/

namespace Sys2Proof.Machine

/-- An instruction that puts the result OK on `u` completes with what `u` changed (spec/40_step.md R106). -/
theorem completes_of_exec {i : Instr} {s u : State} {d : Option Diagnostic} {changed : List Part} {post : State → Prop}
    (hexec : exec i s = .next (u.setResult (.ok d))) (frame : SameBut changed s u) (hpost : post (u.setResult (.ok d))) :
    Completes i s d changed post := by
  have operation_frame : SameBut (.result :: changed) s u := frame.mono fun _ hp => List.mem_cons_of_mem _ hp
  have result_frame : SameBut (.result :: changed) u (u.setResult (.ok d)) :=
    (sameBut_setResult u _).mono fun _ hp => List.mem_cons.mpr (.inl (List.mem_singleton.mp hp))
  exact ⟨_, hexec, rfl, operation_frame.trans result_frame, hpost⟩

/-- A skip completes with pc alone changed: advanced where its condition holds, kept where it fails
(spec/41_control_flow.md R126). -/
theorem completes_of_skipIf {i : Instr} {s : State} {c : Bool} {skips stays : Prop}
    (hexec : exec i s = complete (s.skipIf c)) (hskips : skips → c = true) (hstays : stays → c = false) :
    Completes i s none [.pc] (fun t => (skips → t.pc = s.pc + 2) ∧ (stays → t.pc = s.pc)) := by
  rw [State.skipIf_eq] at hexec
  refine completes_of_exec hexec (sameBut_setPc s _) ⟨fun h => ?skips, fun h => ?stays⟩
  case skips => simp [hskips h]
  case stays => simp [hstays h]

namespace State

@[simp] theorem endStep_result (s : State) : s.endStep.result = s.result := sameBut_endStep s .result (by decide)

@[simp] theorem endStep_pc (s : State) : s.endStep.pc = s.pc := sameBut_endStep s .pc (by decide)

/-- After an OK result both timers are as a step's end leaves them (spec/45_timers_keys.md R230). -/
theorem endStep_timers_of_isOk {s : State} (hok : s.result.isOk = true) :
    s.endStep.dt = atStepEnd s s.dt ∧ s.endStep.st = atStepEnd s s.st := by
  by_cases hmode : s.config.timerTickMode = .perStep <;>
    simp [endStep_eq, atStepEnd, hok, hmode, countDown_eq_afterTick]

end State

/-- The fetch takes the random byte and advances pc, and changes nothing else (spec/40_step.md R102). -/
theorem sameBut_fetch (rnd : Byte) (s : State) : SameBut [.pc, .rnd] s (s.setRnd rnd).advancePc :=
  ((sameBut_setRnd s rnd).mono (by decide)).trans ((sameBut_setPc _ _).mono (by decide))

/-- A step whose word only reports a diagnostic: pc is past the word and the timers tick by mode, no more
(spec/40_step.md R105, spec/60_exceptions.md R256). -/
theorem steps_of_completeWith {rnd : Byte} {s : State} {d : Diagnostic} (hpc : s.pc.toNat ≤ 0xFFE)
    (hexec : execWord s.fetchWord (s.setRnd rnd).advancePc = completeWith d (s.setRnd rnd).advancePc) :
    Steps rnd s [.pc, .dt, .st, .rnd, .result] (fun t =>
      t.result = .ok (some d) ∧ t.pc = s.pc + 2 ∧ t.dt = atStepEnd s s.dt ∧ t.st = atStepEnd s s.st) := by
  have answers : stepWith rnd s = .next ((s.setRnd rnd).advancePc.setResult (.ok (some d))).endStep := by
    rw [stepWith_of_canFetch rnd hpc, hexec]; rfl
  have frame : SameBut [.pc, .dt, .st, .rnd, .result] s ((s.setRnd rnd).advancePc.setResult (.ok (some d))).endStep :=
    ((sameBut_fetch rnd s).mono (by decide)).trans
      (((sameBut_setResult _ _).mono (by decide)).trans ((sameBut_endStep _).mono (by decide)))
  exact ⟨_, answers, frame, State.endStep_result _, State.endStep_pc _, State.endStep_timers_of_isOk rfl⟩

end Sys2Proof.Machine
end

section
/-! CallNative (spec/41_control_flow.md R122): its words, and that it only reports. -/

namespace Sys2Proof.Machine

theorem decodeWord_callNative {nnn : Addr} (hCls : nnn ≠ 0x0E0) (hRet : nnn ≠ 0x0EE) :
    decodeWord (formatNNN 0x0 nnn) = .ok (.callNative nnn) := by
  have word_ne_cls : formatNNN 0x0 nnn ≠ 0x00E0 := fun h =>
    hCls ((fieldNNN_formatNNN 0x0 nnn).symm.trans (congrArg fieldNNN h))
  have word_ne_ret : formatNNN 0x0 nnn ≠ 0x00EE := fun h =>
    hRet ((fieldNNN_formatNNN 0x0 nnn).symm.trans (congrArg fieldNNN h))
  rw [decodeWord_of_family_zero (fieldF_formatNNN _ _), decodeFamily0_callNative word_ne_cls word_ne_ret,
    fieldNNN_formatNNN]

theorem exec_callNative (nnn : Addr) (s : State) :
    exec (.callNative nnn) s = completeWith (.nativeCall nnn) s := rfl

/-- Settles O32: CallNative puts its diagnostic on the state it is given, so the step's changes are those of the fetch
and of the step's end. -/
theorem callNativeIsANoOpWithADiagnostic : Obligations.CallNativeIsANoOpWithADiagnostic := by
  unfold Obligations.CallNativeIsANoOpWithADiagnostic
  intro nnn
  refine ⟨decodeWord_callNative, ?execution, ?step⟩
  case execution =>
    intro s
    exact completes_of_exec (exec_callNative nnn s) (SameBut.refl [] s) trivial
  case step =>
    intro rnd s hCls hRet hpc hword
    have decoded : decodeWord s.fetchWord = .ok (.callNative nnn) := hword ▸ decodeWord_callNative hCls hRet
    exact steps_of_completeWith hpc ((execWord_of_decoded decoded _).trans (exec_callNative nnn _))

end Sys2Proof.Machine
end

section
/-! The skips that compare with an immediate (spec/41_control_flow.md R127, R128). -/

namespace Sys2Proof.Machine

theorem decodeWord_skipIfEqualImmediate (x : Reg) (nn : Byte) :
    decodeWord (formatXNN 0x3 x nn) = .ok (.skipIfEqualImmediate x nn) := by
  simp [decodeWord]

theorem decodeWord_skipIfNotEqualImmediate (x : Reg) (nn : Byte) :
    decodeWord (formatXNN 0x4 x nn) = .ok (.skipIfNotEqualImmediate x nn) := by
  simp [decodeWord]

theorem exec_skipIfEqualImmediate (x : Reg) (nn : Byte) (s : State) :
    exec (.skipIfEqualImmediate x nn) s = complete (s.skipIf (s.getV x == nn)) := rfl

theorem exec_skipIfNotEqualImmediate (x : Reg) (nn : Byte) (s : State) :
    exec (.skipIfNotEqualImmediate x nn) s = complete (s.skipIf (s.getV x != nn)) := rfl

/-- Settles O33: each is a skip whose condition is the comparison of V[X] with NN. -/
theorem skipsOnAnImmediate : Obligations.SkipsOnAnImmediate := by
  unfold Obligations.SkipsOnAnImmediate
  intro x nn
  refine ⟨decodeWord_skipIfEqualImmediate x nn, decodeWord_skipIfNotEqualImmediate x nn, fun s => ⟨?equal, ?notEqual⟩⟩
  case equal =>
    exact completes_of_skipIf (exec_skipIfEqualImmediate x nn s) beq_iff_eq.mpr beq_eq_false_iff_ne.mpr
  case notEqual =>
    exact completes_of_skipIf (exec_skipIfNotEqualImmediate x nn s) bne_iff_ne.mpr bne_eq_false_iff_eq.mpr

end Sys2Proof.Machine
end

section
/-! The instructions that write one general register and nothing else, and the immediate load and add among them
(spec/42_alu.md R151, R152). -/

namespace Sys2Proof.Machine

theorem State.sameRegsBut_setV (s : State) (x : Reg) (b : Byte) : SameRegsBut (· = x) s (s.setV x b) :=
  fun _ hr => s.setV_getV_other b hr

/-- An instruction that only writes `b` to V[x] completes with the general registers alone changed; what is claimed of
its end state follows from V[x] being `b` and every other register being kept. -/
theorem completes_of_setV {i : Instr} {s : State} {x : Reg} {b : Byte} {post : State → Prop}
    (hexec : exec i s = complete (s.setV x b)) (hpost : ∀ t, t.getV x = b → SameRegsBut (· = x) s t → post t) :
    Completes i s none [.v] post :=
  completes_of_exec hexec (sameBut_setV s x b) (hpost _ (s.setV_getV_same x b) (s.sameRegsBut_setV x b))

theorem decodeWord_loadImmediate (x : Reg) (nn : Byte) :
    decodeWord (formatXNN 0x6 x nn) = .ok (.loadImmediate x nn) := by
  simp [decodeWord]

theorem decodeWord_addImmediate (x : Reg) (nn : Byte) :
    decodeWord (formatXNN 0x7 x nn) = .ok (.addImmediate x nn) := by
  simp [decodeWord]

theorem exec_loadImmediate (x : Reg) (nn : Byte) (s : State) :
    exec (.loadImmediate x nn) s = complete (s.setV x nn) := rfl

theorem exec_addImmediate (x : Reg) (nn : Byte) (s : State) :
    exec (.addImmediate x nn) s = complete (s.setV x (s.getV x + nn)) := rfl

/-- Settles O35: each writes V[X] alone, the add with the byte sum, which is the sum mod 256. -/
theorem immediateLoadAndAdd : Obligations.ImmediateLoadAndAdd := by
  unfold Obligations.ImmediateLoadAndAdd
  intro x nn
  refine ⟨decodeWord_loadImmediate x nn, decodeWord_addImmediate x nn, fun s => ⟨?load, ?add⟩⟩
  case load =>
    exact completes_of_setV (exec_loadImmediate x nn s) fun _ value others => ⟨value, others⟩
  case add =>
    refine completes_of_setV (exec_addImmediate x nn s) fun _ value others => ⟨?_, others⟩
    rw [value, BitVec.toNat_add]

end Sys2Proof.Machine
end

section
/-! ClearDisplay (spec/43_display.md R182): its word, and the blank display it leaves. -/

namespace Sys2Proof.Machine

theorem decodeWord_clearDisplay : decodeWord 0x00E0 = .ok .clearDisplay := by
  rw [decodeWord_of_family_zero (by decide), decodeFamily0_clearDisplay]

theorem exec_clearDisplay (s : State) : exec .clearDisplay s = complete (s.setDisp (Vector.replicate 32 0)) := rfl

/-- A state whose display rows are all 0 has no pixel set (R180). -/
theorem State.pixel_of_disp_blank {t : State} (blank : t.disp = Vector.replicate 32 0) (row : Fin 32) (col : Fin 64) :
    t.pixel row col = false := by
  rw [State.pixel, blank, Vector.get_replicate]
  exact BitVec.getMsbD_zero

/-- Settles O41: ClearDisplay puts a blank display in the state and changes no other part. -/
theorem clearDisplayUnsetsEveryPixel : Obligations.ClearDisplayUnsetsEveryPixel := by
  unfold Obligations.ClearDisplayUnsetsEveryPixel
  refine ⟨decodeWord_clearDisplay, fun s => ?execution⟩
  case execution =>
    exact completes_of_exec (exec_clearDisplay s) (sameBut_setDisp s _) (State.pixel_of_disp_blank (by simp))

end Sys2Proof.Machine
end

section
/-! SetIndex (spec/44_index_memory.md R201): its word, and the address it puts in I. -/

namespace Sys2Proof.Machine

theorem decodeWord_setIndex (nnn : Addr) : decodeWord (formatNNN 0xA nnn) = .ok (.setIndex nnn) := by
  simp [decodeWord]

theorem exec_setIndex (nnn : Addr) (s : State) : exec (.setIndex nnn) s = complete (s.setI (zext16 nnn)) := rfl

/-- Settles O46: SetIndex writes I alone, with the address zero-extended, which keeps its value. -/
theorem setIndexWritesTheAddress : Obligations.SetIndexWritesTheAddress := by
  unfold Obligations.SetIndexWritesTheAddress
  intro nnn
  refine ⟨decodeWord_setIndex nnn, fun s => ?execution⟩
  case execution =>
    have index_value : (zext16 nnn).toNat = nnn.toNat := BitVec.toNat_setWidth_of_le (by decide)
    exact completes_of_exec (exec_setIndex nnn s) (sameBut_setI s _) index_value

end Sys2Proof.Machine
end

section
/-! The words of the instructions decode to them (spec/30_encoding.md R73, R76, R82): one lemma per instruction, through
the family its word selects. -/

namespace Sys2Proof.Machine

theorem decodeWord_of_family_eight {w : Word} (hF : fieldF w = 0x8) : decodeWord w = decodeFamily8 w := by
  simp [decodeWord, hF]

theorem decodeWord_of_family_E {w : Word} (hF : fieldF w = 0xE) : decodeWord w = decodeFamilyE w := by
  simp [decodeWord, hF]

theorem decodeWord_of_family_F {w : Word} (hF : fieldF w = 0xF) : decodeWord w = decodeFamilyF w := by
  simp [decodeWord, hF]

@[simp] theorem indexOfNibble_val (b : BitVec 4) : (indexOfNibble b).val = b.toNat := rfl

/-! Families 1, 2, 5, 9, A to D select one instruction each. -/

theorem decodeWord_ret : decodeWord 0x00EE = .ok .ret := by
  rw [decodeWord_of_family_zero (by decide), decodeFamily0_ret]

theorem decodeWord_jump (nnn : Addr) : decodeWord (formatNNN 0x1 nnn) = .ok (.jump nnn) := by
  simp [decodeWord]

theorem decodeWord_call (nnn : Addr) : decodeWord (formatNNN 0x2 nnn) = .ok (.call nnn) := by
  simp [decodeWord]

theorem decodeWord_skipIfRegistersEqual (x y : Reg) (n : BitVec 4) :
    decodeWord (formatXYN 0x5 x y n) = .ok (.skipIfRegistersEqual x y) := by
  simp [decodeWord]

theorem decodeWord_skipIfRegistersNotEqual (x y : Reg) (n : BitVec 4) :
    decodeWord (formatXYN 0x9 x y n) = .ok (.skipIfRegistersNotEqual x y) := by
  simp [decodeWord]

theorem decodeWord_jumpWithOffset (nnn : Addr) : decodeWord (formatNNN 0xB nnn) = .ok (.jumpWithOffset nnn) := by
  simp [decodeWord]

theorem decodeWord_loadRandomMasked (x : Reg) (nn : Byte) :
    decodeWord (formatXNN 0xC x nn) = .ok (.loadRandomMasked x nn) := by
  simp [decodeWord]

theorem decodeWord_drawSprite (x y : Reg) (n : Fin 16) :
    decodeWord (formatXYN 0xD x y (nibbleOfIndex n)) = .ok (.drawSprite x y n) := by
  simp [decodeWord]

/-! Family 8 selects by N (R79). -/

theorem decodeWord_copy (x y : Reg) : decodeWord (formatXYN 0x8 x y 0x0) = .ok (.copy x y) := by
  simp [decodeWord, decodeFamily8]

theorem decodeWord_or (x y : Reg) : decodeWord (formatXYN 0x8 x y 0x1) = .ok (.or x y) := by
  simp [decodeWord, decodeFamily8]

theorem decodeWord_and (x y : Reg) : decodeWord (formatXYN 0x8 x y 0x2) = .ok (.and x y) := by
  simp [decodeWord, decodeFamily8]

theorem decodeWord_xor (x y : Reg) : decodeWord (formatXYN 0x8 x y 0x3) = .ok (.xor x y) := by
  simp [decodeWord, decodeFamily8]

theorem decodeWord_add (x y : Reg) : decodeWord (formatXYN 0x8 x y 0x4) = .ok (.add x y) := by
  simp [decodeWord, decodeFamily8]

theorem decodeWord_sub (x y : Reg) : decodeWord (formatXYN 0x8 x y 0x5) = .ok (.sub x y) := by
  simp [decodeWord, decodeFamily8]

theorem decodeWord_shiftRight (x y : Reg) : decodeWord (formatXYN 0x8 x y 0x6) = .ok (.shiftRight x y) := by
  simp [decodeWord, decodeFamily8]

theorem decodeWord_subReverse (x y : Reg) : decodeWord (formatXYN 0x8 x y 0x7) = .ok (.subReverse x y) := by
  simp [decodeWord, decodeFamily8]

theorem decodeWord_shiftLeft (x y : Reg) : decodeWord (formatXYN 0x8 x y 0xE) = .ok (.shiftLeft x y) := by
  simp [decodeWord, decodeFamily8]

/-! Families E and F select by NN (R80, R81). -/

theorem decodeWord_skipIfKeyPressed (x : Reg) : decodeWord (formatXNN 0xE x 0x9E) = .ok (.skipIfKeyPressed x) := by
  simp [decodeWord, decodeFamilyE]

theorem decodeWord_skipIfKeyNotPressed (x : Reg) :
    decodeWord (formatXNN 0xE x 0xA1) = .ok (.skipIfKeyNotPressed x) := by
  simp [decodeWord, decodeFamilyE]

theorem decodeWord_loadFromDelayTimer (x : Reg) : decodeWord (formatXNN 0xF x 0x07) = .ok (.loadFromDelayTimer x) := by
  simp [decodeWord, decodeFamilyF]

theorem decodeWord_awaitKey (x : Reg) : decodeWord (formatXNN 0xF x 0x0A) = .ok (.awaitKey x) := by
  simp [decodeWord, decodeFamilyF]

theorem decodeWord_loadDelayTimer (x : Reg) : decodeWord (formatXNN 0xF x 0x15) = .ok (.loadDelayTimer x) := by
  simp [decodeWord, decodeFamilyF]

theorem decodeWord_loadSoundTimer (x : Reg) : decodeWord (formatXNN 0xF x 0x18) = .ok (.loadSoundTimer x) := by
  simp [decodeWord, decodeFamilyF]

theorem decodeWord_addToIndex (x : Reg) : decodeWord (formatXNN 0xF x 0x1E) = .ok (.addToIndex x) := by
  simp [decodeWord, decodeFamilyF]

theorem decodeWord_loadFontAddress (x : Reg) : decodeWord (formatXNN 0xF x 0x29) = .ok (.loadFontAddress x) := by
  simp [decodeWord, decodeFamilyF]

theorem decodeWord_storeBCD (x : Reg) : decodeWord (formatXNN 0xF x 0x33) = .ok (.storeBCD x) := by
  simp [decodeWord, decodeFamilyF]

theorem decodeWord_storeRegisters (x : Reg) : decodeWord (formatXNN 0xF x 0x55) = .ok (.storeRegisters x) := by
  simp [decodeWord, decodeFamilyF]

theorem decodeWord_loadRegisters (x : Reg) : decodeWord (formatXNN 0xF x 0x65) = .ok (.loadRegisters x) := by
  simp [decodeWord, decodeFamilyF]

/-- Settles O1: instruction by instruction, its word is in the family and has the selector that decode to it. Only
CallNative needs the hypothesis, which keeps its address field off the two full words of family 0. -/
theorem decodeOfEncodeGivesTheInstruction : Obligations.DecodeOfEncodeGivesTheInstruction := by
  unfold Obligations.DecodeOfEncodeGivesTheInstruction
  intro i wellFormed
  cases i with
  | callNative nnn =>
    obtain ⟨hCls, hRet⟩ : nnn ≠ 0x0E0 ∧ nnn ≠ 0x0EE := by simpa [Instr.wellFormed] using wellFormed
    exact decodeWord_callNative hCls hRet
  | clearDisplay => exact decodeWord_clearDisplay
  | ret => exact decodeWord_ret
  | jump nnn => exact decodeWord_jump nnn
  | call nnn => exact decodeWord_call nnn
  | skipIfEqualImmediate x nn => exact decodeWord_skipIfEqualImmediate x nn
  | skipIfNotEqualImmediate x nn => exact decodeWord_skipIfNotEqualImmediate x nn
  | skipIfRegistersEqual x y => exact decodeWord_skipIfRegistersEqual x y _
  | loadImmediate x nn => exact decodeWord_loadImmediate x nn
  | addImmediate x nn => exact decodeWord_addImmediate x nn
  | copy x y => exact decodeWord_copy x y
  | or x y => exact decodeWord_or x y
  | and x y => exact decodeWord_and x y
  | xor x y => exact decodeWord_xor x y
  | add x y => exact decodeWord_add x y
  | sub x y => exact decodeWord_sub x y
  | shiftRight x y => exact decodeWord_shiftRight x y
  | subReverse x y => exact decodeWord_subReverse x y
  | shiftLeft x y => exact decodeWord_shiftLeft x y
  | skipIfRegistersNotEqual x y => exact decodeWord_skipIfRegistersNotEqual x y _
  | setIndex nnn => exact decodeWord_setIndex nnn
  | jumpWithOffset nnn => exact decodeWord_jumpWithOffset nnn
  | loadRandomMasked x nn => exact decodeWord_loadRandomMasked x nn
  | drawSprite x y n => exact decodeWord_drawSprite x y n
  | skipIfKeyPressed x => exact decodeWord_skipIfKeyPressed x
  | skipIfKeyNotPressed x => exact decodeWord_skipIfKeyNotPressed x
  | loadFromDelayTimer x => exact decodeWord_loadFromDelayTimer x
  | awaitKey x => exact decodeWord_awaitKey x
  | loadDelayTimer x => exact decodeWord_loadDelayTimer x
  | loadSoundTimer x => exact decodeWord_loadSoundTimer x
  | addToIndex x => exact decodeWord_addToIndex x
  | loadFontAddress x => exact decodeWord_loadFontAddress x
  | storeBCD x => exact decodeWord_storeBCD x
  | storeRegisters x => exact decodeWord_storeRegisters x
  | loadRegisters x => exact decodeWord_loadRegisters x

end Sys2Proof.Machine
end

section
/-! The decoder from the word's side: what fails to decode (spec/30_encoding.md R79 to R81, R90), and that what decodes
encodes to the word it came from (R78, R82). -/

namespace Sys2Proof.Machine

/-- Family 8 fails exactly on the low nibbles R79 does not assign, and the failure carries the word. -/
theorem decodeFamily8_eq_error_iff (w : Word) (e : DecodeError) :
    decodeFamily8 w = .error e ↔
      DecodeError.unknownOpcode w = e ∧
      w.extractLsb' 0 4 ∉ [(0x0 : BitVec 4), 0x1, 0x2, 0x3, 0x4, 0x5, 0x6, 0x7, 0xE] := by
  have selector : (fieldN w).val = (w.extractLsb' 0 4).toNat := rfl
  simp only [decodeFamily8, selector]
  generalize w.extractLsb' 0 4 = n
  split <;> simp_all [BitVec.toNat_eq]

/-- Family E fails exactly on the low bytes R80 does not assign, and the failure carries the word. -/
theorem decodeFamilyE_eq_error_iff (w : Word) (e : DecodeError) :
    decodeFamilyE w = .error e ↔ DecodeError.unknownOpcode w = e ∧ w.extractLsb' 0 8 ∉ [(0x9E : Byte), 0xA1] := by
  have selector : (fieldNN w).toNat = (w.extractLsb' 0 8).toNat := rfl
  simp only [decodeFamilyE, selector]
  generalize w.extractLsb' 0 8 = n
  split <;> simp_all [BitVec.toNat_eq]

/-- Family F fails exactly on the low bytes R81 does not assign, and the failure carries the word. -/
theorem decodeFamilyF_eq_error_iff (w : Word) (e : DecodeError) :
    decodeFamilyF w = .error e ↔
      DecodeError.unknownOpcode w = e ∧
      w.extractLsb' 0 8 ∉ [(0x07 : Byte), 0x0A, 0x15, 0x18, 0x1E, 0x29, 0x33, 0x55, 0x65] := by
  have selector : (fieldNN w).toNat = (w.extractLsb' 0 8).toNat := rfl
  simp only [decodeFamilyF, selector]
  generalize w.extractLsb' 0 8 = n
  split <;> simp_all [BitVec.toNat_eq]

/-- A family other than 8, E and F decodes every word of it (R77, R78). -/
theorem decodeWord_ok_of_other_family {w : Word} (h8 : fieldF w ≠ 0x8) (hE : fieldF w ≠ 0xE) (hF : fieldF w ≠ 0xF) :
    ∃ i, decodeWord w = .ok i := by
  have family_lt := (fieldF w).isLt
  have ne8 : (fieldF w).toNat ≠ 0x8 := BitVec.toNat_ne_iff_ne.mpr h8
  have neE : (fieldF w).toNat ≠ 0xE := BitVec.toNat_ne_iff_ne.mpr hE
  have neF : (fieldF w).toNat ≠ 0xF := BitVec.toNat_ne_iff_ne.mpr hF
  unfold decodeWord
  split
  case h_9 family8 => exact absurd family8 ne8
  case h_15 familyE => exact absurd familyE neE
  case h_16 => exfalso; simp only [imp_false] at *; omega -- the other arms leave family F alone
  all_goals exact ⟨_, rfl⟩

/-- Settles O5: families 8, E and F fail on the selectors their lemmas name, and every other family decodes. -/
theorem decodeFailsExactlyOnTheUnassignedWords : Obligations.DecodeFailsExactlyOnTheUnassignedWords := by
  unfold Obligations.DecodeFailsExactlyOnTheUnassignedWords
  intro w
  show (_ ↔ (fieldF w = 0x8 ∧ _) ∨ (fieldF w = 0xE ∧ _) ∨ (fieldF w = 0xF ∧ _)) ∧ _
  by_cases h8 : fieldF w = 0x8
  · rw [decodeWord_of_family_eight h8]
    exact ⟨by simp [decodeFamily8_eq_error_iff, h8], fun e h => ((decodeFamily8_eq_error_iff w e).mp h).1.symm⟩
  by_cases hE : fieldF w = 0xE
  · rw [decodeWord_of_family_E hE]
    exact ⟨by simp [decodeFamilyE_eq_error_iff, hE], fun e h => ((decodeFamilyE_eq_error_iff w e).mp h).1.symm⟩
  by_cases hF : fieldF w = 0xF
  · rw [decodeWord_of_family_F hF]
    exact ⟨by simp [decodeFamilyF_eq_error_iff, hF], fun e h => ((decodeFamilyF_eq_error_iff w e).mp h).1.symm⟩
  obtain ⟨i, decodes⟩ := decodeWord_ok_of_other_family h8 hE hF
  exact ⟨iff_of_false (by simp [decodes]) (by tauto), by simp [decodes]⟩

/-- Settles O4: each assigned low byte is one arm of its family's decoder, and the others fail. -/
theorem familiesEAndFDecodeOnTheLowByte : Obligations.FamiliesEAndFDecodeOnTheLowByte := by
  unfold Obligations.FamiliesEAndFDecodeOnTheLowByte
  intro w x hx
  have operand : fieldX w = x := Fin.ext hx.symm
  refine ⟨fun family => ?familyE, fun family => ?familyF⟩
  case familyE =>
    rw [decodeWord_of_family_E family]
    refine ⟨?_, ?_, fun unassigned => (decodeFamilyE_eq_error_iff w _).mpr ⟨rfl, unassigned⟩⟩
    all_goals intro low; simp [decodeFamilyE, fieldNN, low, operand]
  case familyF =>
    rw [decodeWord_of_family_F family]
    refine ⟨?_, ?_, ?_, ?_, ?_, ?_, ?_, ?_, ?_,
      fun unassigned => (decodeFamilyF_eq_error_iff w _).mpr ⟨rfl, unassigned⟩⟩
    all_goals intro low; simp [decodeFamilyF, fieldNN, low, operand]

/-- Settles O6: each word is evaluated. -/
theorem sampleWordsDecode : Obligations.SampleWordsDecode := by
  unfold Obligations.SampleWordsDecode
  decide

/-! A word is rebuilt from its fields once its family, and its selector where it has one, are known. -/

theorem formatNNN_of_family {w : Word} {f : BitVec 4} (hF : fieldF w = f) : formatNNN f (fieldNNN w) = w :=
  hF ▸ formatNNN_fields w

theorem formatXNN_of_family {w : Word} {f : BitVec 4} (hF : fieldF w = f) :
    formatXNN f (fieldX w) (fieldNN w) = w :=
  hF ▸ formatXNN_fields w

theorem formatXYN_of_family {w : Word} {f : BitVec 4} (hF : fieldF w = f) :
    formatXYN f (fieldX w) (fieldY w) (nibbleOfIndex (fieldN w)) = w :=
  hF ▸ formatXYN_fields w

theorem formatXNN_of_selector {w : Word} {f : BitVec 4} {n : Nat} (hF : fieldF w = f) (hN : (fieldNN w).toNat = n) :
    formatXNN f (fieldX w) (BitVec.ofNat 8 n) = w := by
  rw [← hN, BitVec.ofNat_toNat, BitVec.setWidth_eq, formatXNN_of_family hF]

theorem formatXYN_of_selector {w : Word} {f : BitVec 4} {n : Nat} (hF : fieldF w = f) (hN : (fieldN w).val = n) :
    formatXYN f (fieldX w) (fieldY w) (BitVec.ofNat 4 n) = w := by
  rw [← hN, ← nibbleOfIndex, formatXYN_of_family hF]

/-- Masking the low nibble of a word of format XYN writes it as 0, as the encoder does where it is ignored (R78). -/
theorem formatXYN_zero_of_family {w : Word} {f : BitVec 4} (hF : fieldF w = f) :
    formatXYN f (fieldX w) (fieldY w) 0x0 = w &&& 0xFFF0 := by
  apply BitVec.eq_of_getLsbD_eq
  intro k hk
  conv_rhs => rw [← formatXYN_of_family hF]
  rw [BitVec.getLsbD_and, formatXYN_getLsbD, formatXYN_getLsbD]
  interval_cases k <;> simp

/-- What O2 says of a word and what it decodes to: well-formed, and encoded as the word but for ignored bits. -/
def EncodesBack (w : Word) (i : Instr) : Prop :=
  i.wellFormed = true ∧ encode i = if fieldF w = 0x5 ∨ fieldF w = 0x9 then w &&& 0xFFF0 else w

theorem encodesBack_of_eq {w : Word} {i : Instr} (h5 : fieldF w ≠ 0x5) (h9 : fieldF w ≠ 0x9)
    (wellFormed : i.wellFormed = true) (word : encode i = w) : EncodesBack w i :=
  ⟨wellFormed, by rw [word, if_neg (not_or.mpr ⟨h5, h9⟩)]⟩

theorem encodesBack_of_masked {w : Word} {i : Instr} (h : fieldF w = 0x5 ∨ fieldF w = 0x9)
    (wellFormed : i.wellFormed = true) (word : encode i = w &&& 0xFFF0) : EncodesBack w i :=
  ⟨wellFormed, by rw [word, if_pos h]⟩

theorem decodeFamily0_encodesBack {w : Word} (hF : fieldF w = 0x0) : EncodesBack w (decodeFamily0 w) := by
  by_cases hCls : w = 0x00E0
  · subst hCls; exact ⟨rfl, rfl⟩
  by_cases hRet : w = 0x00EE
  · subst hRet; exact ⟨rfl, rfl⟩
  rw [decodeFamily0_callNative hCls hRet]
  refine encodesBack_of_eq (by simp [hF]) (by simp [hF]) ?wellFormed (formatNNN_of_family hF)
  have address_ne {n : Addr} (h : w ≠ formatNNN 0x0 n) : fieldNNN w ≠ n := fun e =>
    h (e ▸ (formatNNN_of_family hF).symm)
  simp only [Instr.wellFormed, Bool.and_eq_true, bne_iff_ne]
  exact ⟨address_ne hCls, address_ne hRet⟩

theorem decodeFamily8_encodesBack {w : Word} {i : Instr} (hF : fieldF w = 0x8) (h : decodeFamily8 w = .ok i) :
    EncodesBack w i := by
  unfold decodeFamily8 at h
  split at h <;> cases h
  all_goals exact encodesBack_of_eq (by simp [hF]) (by simp [hF]) rfl (formatXYN_of_selector hF ‹_›)

theorem decodeFamilyE_encodesBack {w : Word} {i : Instr} (hF : fieldF w = 0xE) (h : decodeFamilyE w = .ok i) :
    EncodesBack w i := by
  unfold decodeFamilyE at h
  split at h <;> cases h
  all_goals exact encodesBack_of_eq (by simp [hF]) (by simp [hF]) rfl (formatXNN_of_selector hF ‹_›)

theorem decodeFamilyF_encodesBack {w : Word} {i : Instr} (hF : fieldF w = 0xF) (h : decodeFamilyF w = .ok i) :
    EncodesBack w i := by
  unfold decodeFamilyF at h
  split at h <;> cases h
  all_goals exact encodesBack_of_eq (by simp [hF]) (by simp [hF]) rfl (formatXNN_of_selector hF ‹_›)

/-- Settles O2: family by family, the fields that the decoder took are those the encoder puts back. -/
theorem encodeOfDecodeGivesTheWord : Obligations.EncodeOfDecodeGivesTheWord := by
  unfold Obligations.EncodeOfDecodeGivesTheWord
  intro w i h
  show EncodesBack w i
  have family {n : Nat} (hF : (fieldF w).toNat = n) : fieldF w = BitVec.ofNat 4 n := by simp [← hF]
  unfold decodeWord at h
  split at h
  case h_1 hF => cases h; exact decodeFamily0_encodesBack (family hF)
  case h_9 hF => exact decodeFamily8_encodesBack (family hF) h
  case h_15 hF => exact decodeFamilyE_encodesBack (family hF) h
  case h_16 =>
    have family_lt := (fieldF w).isLt
    exact decodeFamilyF_encodesBack (family (by simp only [imp_false] at *; omega)) h
  all_goals have hF := family ‹_›; cases h
  case h_6 => exact encodesBack_of_masked (.inl hF) rfl (formatXYN_zero_of_family hF)
  case h_10 => exact encodesBack_of_masked (.inr hF) rfl (formatXYN_zero_of_family hF)
  all_goals refine encodesBack_of_eq (by simp [hF]) (by simp [hF]) rfl ?_
  case h_2 | h_3 | h_11 | h_12 => exact formatNNN_of_family hF
  case h_4 | h_5 | h_7 | h_8 | h_13 => exact formatXNN_of_family hF
  case h_14 => exact formatXYN_of_family hF

end Sys2Proof.Machine
end

section
/-! Memory in canonical form is determined by what it reads as (spec/20_memory.md R50, R52; log 7). -/

namespace Sys2Proof.Machine

namespace Memory

theorem wfFrom_cons_iff {lo a : Nat} {b : Byte} {rest : Memory} :
    wfFrom lo ((a, b) :: rest) = true ↔ lo ≤ a ∧ a < memSize ∧ b ≠ background a ∧ wfFrom (a + 1) rest = true := by
  simp [wfFrom, and_assoc]

/-- An address that one canonical memory lists, and at which another reads alike, is not below all that the other
lists. -/
theorem not_wfFrom_above_listed {lo k : Nat} {b : Byte} {rest m' : Memory} (wf : wfFrom lo ((k, b) :: rest) = true)
    (agree : read ((k, b) :: rest) k = read m' k) : ¬ wfFrom (k + 1) m' = true := by
  intro above
  obtain ⟨-, -, not_background, -⟩ := wfFrom_cons_iff.mp wf
  have listed : read ((k, b) :: rest) k = b := by simp [read]
  exact not_background (listed.symm.trans (agree.trans (read_below above (Nat.lt_succ_self k))))

/-- Two memories canonical from `lo` on that read alike there are equal: their first cells cannot differ in address. -/
theorem eq_of_wfFrom : ∀ {m m' : Memory} {lo : Nat}, wfFrom lo m = true → wfFrom lo m' = true →
    (∀ a, lo ≤ a → a < memSize → read m a = read m' a) → m = m' := by
  intro m
  induction m with
  | nil =>
    intro m' lo wf wf' agree
    cases m' with
    | nil => rfl
    | cons c rest' =>
      obtain ⟨lo_le, lt, -, -⟩ := wfFrom_cons_iff.mp wf'
      exact absurd rfl (not_wfFrom_above_listed wf' (agree _ lo_le lt).symm)
  | cons c rest ih =>
    obtain ⟨k, b⟩ := c
    intro m' lo wf wf' agree
    obtain ⟨lo_le, lt, -, wf_rest⟩ := wfFrom_cons_iff.mp wf
    have agree_k := agree k lo_le lt
    cases m' with
    | nil => exact absurd rfl (not_wfFrom_above_listed wf agree_k)
    | cons c' rest' =>
      obtain ⟨k', b'⟩ := c'
      obtain ⟨lo_le', lt', ne', wf_rest'⟩ := wfFrom_cons_iff.mp wf'
      have above {j : Nat} (h : j < k') : wfFrom (j + 1) ((k', b') :: rest') = true :=
        wfFrom_cons_iff.mpr ⟨h, lt', ne', wf_rest'⟩
      rcases Nat.lt_trichotomy k k' with below | rfl | beyond
      · exact absurd (above below) (not_wfFrom_above_listed wf agree_k)
      · have same_byte : b = b' := by simpa [read] using agree_k
        have agree_rest : ∀ a, k + 1 ≤ a → a < memSize → read rest a = read rest' a := by
          intro a ha hlt
          have ne : k ≠ a := by omega
          simpa [read, ne] using agree a (by omega) hlt
        rw [same_byte, ih wf_rest wf_rest' agree_rest]
      · have above_k' : wfFrom (k' + 1) ((k, b) :: rest) = true := by
          obtain ⟨-, -, ne, -⟩ := wfFrom_cons_iff.mp wf
          exact wfFrom_cons_iff.mpr ⟨beyond, lt, ne, wf_rest⟩
        exact absurd above_k' (not_wfFrom_above_listed wf' (agree k' lo_le' lt').symm)

end Memory

/-- Settles O12, by the law of a read after a write and the canonical form a write keeps. -/
theorem memWriteChangesOneByte : Obligations.MemWriteChangesOneByte := by
  unfold Obligations.MemWriteChangesOneByte
  intro m a b
  exact ⟨Memory.read_write_same m a b, fun _ hc => Memory.read_write_other m b hc, Memory.wf_write b⟩

/-- Settles O13: the canonical form is the one from address 0 on. -/
theorem canonicalMemoriesAreEqualData : Obligations.CanonicalMemoriesAreEqualData := by
  unfold Obligations.CanonicalMemoriesAreEqualData
  intro m m' wf wf' agree
  exact Memory.eq_of_wfFrom wf wf' fun a _ ha => agree a ha

theorem wordOfBytes_eq_or (hi lo : Byte) : wordOfBytes hi lo = (hi.setWidth 16 <<< 8) ||| lo.setWidth 16 := by
  apply BitVec.eq_of_getLsbD_eq
  intro k hk
  simp only [wordOfBytes, BitVec.getLsbD_append, BitVec.getLsbD_or, BitVec.getLsbD_shiftLeft, BitVec.getLsbD_setWidth]
  by_cases low : k < 8
  · simp [low, hk]
  · have high : k - 8 < 16 := by omega
    have not_low : lo.getLsbD k = false := BitVec.getLsbD_of_ge lo k (by omega)
    simp [low, hk, high, not_low]

/-- Settles O14. -/
theorem fetchIsBigEndian : Obligations.FetchIsBigEndian := by
  unfold Obligations.FetchIsBigEndian
  intro s
  exact wordOfBytes_eq_or _ _

end Sys2Proof.Machine
end

section
/-! What an instruction can do, said once: the error it raises, if any, and otherwise the parts of the state and the
general registers it may write. The statements about which instruction writes or raises what follow from it. -/

namespace Sys2Proof.Machine

/-- The parts of the state an instruction may write when it completes, beside the step's result. -/
def writes : Instr → List Part
  | .callNative _ => []
  | .clearDisplay => [.disp]
  | .ret => [.pc, .sp]
  | .call _ => [.pc, .sp, .stack]
  | .jump _ | .jumpWithOffset _ => [.pc]
  | .skipIfEqualImmediate _ _ | .skipIfNotEqualImmediate _ _ => [.pc]
  | .skipIfRegistersEqual _ _ | .skipIfRegistersNotEqual _ _ => [.pc]
  | .skipIfKeyPressed _ | .skipIfKeyNotPressed _ => [.pc]
  | .awaitKey _ => [.pc, .v]
  | .loadImmediate _ _ | .addImmediate _ _ | .loadRandomMasked _ _ | .loadFromDelayTimer _ => [.v]
  | .copy _ _ | .or _ _ | .and _ _ | .xor _ _ => [.v]
  | .add _ _ | .sub _ _ | .subReverse _ _ | .shiftRight _ _ | .shiftLeft _ _ => [.v]
  | .loadRegisters _ => [.v]
  | .drawSprite _ _ _ => [.disp, .v]
  | .setIndex _ | .addToIndex _ | .loadFontAddress _ => [.i]
  | .loadDelayTimer _ => [.dt]
  | .loadSoundTimer _ => [.st]
  | .storeBCD _ | .storeRegisters _ => [.mem]

/-- The general registers an instruction may write when it completes. -/
def writesReg : Instr → Reg → Prop
  | .loadImmediate x _ | .addImmediate x _ | .loadRandomMasked x _ | .loadFromDelayTimer x | .awaitKey x => (· = x)
  | .copy x _ | .or x _ | .and x _ | .xor x _ => (· = x)
  | .add x _ | .sub x _ | .subReverse x _ | .shiftRight x _ | .shiftLeft x _ => fun r => r = x ∨ r = 0xF
  | .drawSprite _ _ _ => (· = 0xF)
  | .loadRegisters x => fun r => r.val ≤ x.val
  | _ => fun _ => False

/-- The error an instruction raises in a state, if any (spec/60_exceptions.md R252 to R255). -/
def errorOf (s : State) : Instr → Option ErrorKind
  | .call _ => if s.sp.val = 16 then some .stackOverflow else none
  | .ret => if s.sp.val = 0 then some .stackUnderflow else none
  | .drawSprite _ _ n => if 0 < n.val ∧ 0xFFF < s.i.toNat + n.val - 1 then some .memOutOfRange else none
  | .storeBCD _ => if 0xFFF < s.i.toNat + 2 then some .memOutOfRange else none
  | .storeRegisters x | .loadRegisters x => if 0xFFF < s.i.toNat + x.val then some .memOutOfRange else none
  | .skipIfKeyPressed x | .skipIfKeyNotPressed x =>
    if s.config.keyIndexPolicy = .fault ∧ 0xF < (s.getV x).toNat then some .keyIndexOutOfRange else none
  | _ => none

/-- `u` differs from `s` in nothing but what the instruction may write. Memory no instruction writes is the same data,
not only the same bytes. -/
structure WritesOnly (i : Instr) (s u : State) : Prop where
  parts : SameBut (writes i) s u
  regs : SameRegsBut (writesReg i) s u
  mem : .mem ∉ writes i → u.mem = s.mem

/-- Two register writes in a row, as the instructions that set the flag make them. -/
theorem State.sameRegsBut_setV_setV (s : State) (x y : Reg) (b c : Byte) :
    SameRegsBut (fun r => r = x ∨ r = y) s ((s.setV x b).setV y c) := by
  intro r hr
  obtain ⟨hx, hy⟩ := not_or.mp hr
  rw [State.setV_getV_other _ _ hy, State.setV_getV_other _ _ hx]

theorem sameBut_setV_setV (s : State) (x y : Reg) (b c : Byte) : SameBut [.v] s ((s.setV x b).setV y c) :=
  (sameBut_setV s x b).trans (sameBut_setV _ y c)

/-! The updates of the state, each as what an instruction that makes it alone may write. -/

theorem writesOnly_setV {i : Instr} {x : Reg} (s : State) (b : Byte) (parts : writes i = [.v])
    (regs : writesReg i = (· = x)) : WritesOnly i s (s.setV x b) where
  parts := parts ▸ sameBut_setV s x b
  regs := regs ▸ s.sameRegsBut_setV x b
  mem _ := rfl

theorem writesOnly_writeResultThenFlag {i : Instr} {x : Reg} (s : State) (b flag : Byte) (parts : writes i = [.v])
    (regs : writesReg i = fun r => r = x ∨ r = 0xF) : WritesOnly i s (s.writeResultThenFlag x b flag) where
  parts := parts ▸ sameBut_setV_setV s x _ b flag
  regs := regs ▸ s.sameRegsBut_setV_setV x _ b flag
  mem _ := rfl

theorem writesOnly_shiftWith {i : Instr} {x : Reg} (s : State) (flag result : Byte → Byte) (y : Reg)
    (parts : writes i = [.v]) (regs : writesReg i = fun r => r = x ∨ r = 0xF) :
    WritesOnly i s (s.shiftWith flag result x y) where
  parts := parts ▸ sameBut_setV_setV s _ x _ _
  regs := regs ▸ fun r hr => s.sameRegsBut_setV_setV _ x _ _ r (mt Or.symm hr)
  mem _ := rfl

theorem writesOnly_of_regs_kept {i : Instr} {s u : State} (parts : SameBut (writes i) s u) (regs : u.v = s.v)
    (mem : .mem ∉ writes i → u.mem = s.mem) : WritesOnly i s u where
  parts := parts
  regs r _ := by simp only [State.getV, regs]
  mem := mem

theorem writesOnly_setPc {i : Instr} (s : State) (w : Word) (parts : writes i = [.pc]) :
    WritesOnly i s (s.setPc w) :=
  writesOnly_of_regs_kept (parts ▸ sameBut_setPc s w) rfl fun _ => rfl

theorem writesOnly_skipIf {i : Instr} (s : State) (c : Bool) (parts : writes i = [.pc]) :
    WritesOnly i s (s.skipIf c) :=
  s.skipIf_eq c ▸ writesOnly_setPc s _ parts

theorem writesOnly_setI {i : Instr} (s : State) (w : Word) (parts : writes i = [.i]) : WritesOnly i s (s.setI w) :=
  writesOnly_of_regs_kept (parts ▸ sameBut_setI s w) rfl fun _ => rfl

theorem writesOnly_storeAtIndex {i : Instr} (s : State) (bs : List Byte) (parts : writes i = [.mem]) :
    WritesOnly i s (s.storeAtIndex bs) :=
  writesOnly_of_regs_kept (parts ▸ sameBut_setMem s _) rfl fun h => absurd (parts ▸ List.mem_singleton_self _) h

/-! Return, Call, and the display and register transfers: the state each leaves where it completes. -/

theorem State.sp_zero_or_top (s : State) : s.sp.val = 0 ∨ ∃ k : Fin 16, s.sp.val = k.val + 1 := by
  by_cases empty : s.sp.val = 0
  · exact .inl empty
  · exact .inr ⟨⟨s.sp.val - 1, by omega⟩, by simp only; omega⟩

theorem State.sp_full_or_free (s : State) : s.sp.val = 16 ∨ ∃ k : Fin 16, s.sp.val = k.val := by
  by_cases full : s.sp.val = 16
  · exact .inl full
  · exact .inr ⟨⟨s.sp.val, by omega⟩, rfl⟩

/-- An entry of the return stack after another or the same one is written. -/
theorem get_set_entry (stk : Vector Word 16) (j k : Fin 16) (ra : Word) :
    (stk.set j.val ra j.isLt).get k = if k = j then ra else stk.get k := by
  simp [Vector.get_eq_getElem, Vector.getElem_set, Fin.ext_iff, eq_comm]

/-- The state Return leaves where the stack is not empty (spec/41_control_flow.md R121). -/
theorem exec_ret_of_sp_succ {s : State} {k : Fin 16} (h : s.sp.val = k.val + 1) :
    exec .ret s = complete ({ s with sp := k.castSucc }.setPc (s.stack.get k)) := by
  rcases s.pop_cases with ⟨_, hp⟩ | ⟨empty, -⟩
  · have below : s.sp.val - 1 = k.val := by omega
    simp only [exec, execReturn, hp, below]; rfl
  · omega

theorem exec_ret_of_sp_zero {s : State} (h : s.sp.val = 0) : exec .ret s = raiseError .stackUnderflow s := by
  rcases s.pop_cases with ⟨_, -⟩ | ⟨-, hp⟩
  · omega
  · simp only [exec, execReturn, hp]

/-- The state Call leaves where the stack is not full (R124). -/
theorem exec_call_of_sp_lt {s : State} {k : Fin 16} (nnn : Addr) (h : s.sp.val = k.val) :
    exec (.call nnn) s =
      complete ({ s with stack := s.stack.set k.val s.pc k.isLt, sp := k.succ }.setPc (zext16 nnn)) := by
  rcases s.push_cases s.pc with ⟨_, hp⟩ | ⟨full, -⟩
  · simp only [exec, execCall, hp, h]; rfl
  · omega

theorem exec_call_of_sp_full {s : State} (nnn : Addr) (h : s.sp.val = 16) :
    exec (.call nnn) s = raiseError .stackOverflow s := by
  rcases s.push_cases s.pc with ⟨_, -⟩ | ⟨-, hp⟩
  · omega
  · simp only [exec, execCall, hp]

theorem State.indexInRange_succ_iff (s : State) (n : Nat) :
    s.indexInRange (n + 1) = true ↔ s.i.toNat + n ≤ 0xFFF := by
  rw [s.indexInRange_iff]; omega

/-- The state DrawSprite leaves where the whole sprite is in memory (spec/43_display.md R184). -/
def drawn (s : State) (x y : Reg) (n : Fin 16) : State :=
  let rows := drawRows ((s.getV x).toNat % 64) ((s.getV y).toNat % 32) (s.bytesAtIndex n.val) s.disp false
  (s.setDisp rows.1).setV regVF (flagByte rows.2)

theorem exec_drawSprite_of_inRange {s : State} {n : Fin 16} (x y : Reg)
    (h : ¬ (0 < n.val ∧ 0xFFF < s.i.toNat + n.val - 1)) : exec (.drawSprite x y n) s = complete (drawn s x y n) :=
  if_pos (Bool.not_eq_false _ ▸ mt (s.not_indexInRange_iff _).mp h)

theorem exec_drawSprite_of_outOfRange {s : State} {n : Fin 16} (x y : Reg)
    (h : 0 < n.val ∧ 0xFFF < s.i.toNat + n.val - 1) : exec (.drawSprite x y n) s = raiseError .memOutOfRange s :=
  if_neg (Bool.eq_false_iff.mp ((s.not_indexInRange_iff _).mpr h))

theorem exec_storeBCD_of_inRange {s : State} (x : Reg) (h : s.i.toNat + 2 ≤ 0xFFF) :
    exec (.storeBCD x) s = complete (s.storeAtIndex (bcdDigits (s.getV x))) :=
  if_pos ((s.indexInRange_succ_iff 2).mpr h)

theorem exec_storeBCD_of_outOfRange {s : State} (x : Reg) (h : 0xFFF < s.i.toNat + 2) :
    exec (.storeBCD x) s = raiseError .memOutOfRange s :=
  if_neg (mt (s.indexInRange_succ_iff 2).mp (Nat.not_le.mpr h))

theorem exec_storeRegisters_of_inRange {s : State} {x : Reg} (h : s.i.toNat + x.val ≤ 0xFFF) :
    exec (.storeRegisters x) s = complete (s.storeAtIndex (s.regsUpTo x)) :=
  if_pos ((s.indexInRange_succ_iff _).mpr h)

theorem exec_storeRegisters_of_outOfRange {s : State} {x : Reg} (h : 0xFFF < s.i.toNat + x.val) :
    exec (.storeRegisters x) s = raiseError .memOutOfRange s :=
  if_neg (mt (s.indexInRange_succ_iff _).mp (Nat.not_le.mpr h))

theorem exec_loadRegisters_of_inRange {s : State} {x : Reg} (h : s.i.toNat + x.val ≤ 0xFFF) :
    exec (.loadRegisters x) s = complete (s.setRegs (writeRegsFrom s.v 0 (s.bytesAtIndex (x.val + 1)))) :=
  if_pos ((s.indexInRange_succ_iff _).mpr h)

theorem exec_loadRegisters_of_outOfRange {s : State} {x : Reg} (h : 0xFFF < s.i.toNat + x.val) :
    exec (.loadRegisters x) s = raiseError .memOutOfRange s :=
  if_neg (mt (s.indexInRange_succ_iff _).mp (Nat.not_le.mpr h))

theorem writesOnly_drawn (s : State) (x y : Reg) (n : Fin 16) : WritesOnly (.drawSprite x y n) s (drawn s x y n) where
  parts := ((sameBut_setDisp s _).mono (by simp [writes])).trans ((sameBut_setV _ _ _).mono (by simp [writes]))
  regs r hr := State.setV_getV_other _ _ hr
  mem _ := rfl

/-- The registers after LoadRegisters: V[k] is the byte at I + k where k is at most X (spec/44_index_memory.md R210). -/
theorem getV_after_loadRegisters (s : State) (x k : Reg) :
    (s.setRegs (writeRegsFrom s.v 0 (s.bytesAtIndex (x.val + 1)))).getV k =
      if k.val ≤ x.val then s.readMem (s.i.toNat + k.val) else s.getV k := by
  rw [State.setRegs_getV, writeRegsFrom_get, State.bytesAtIndex_length]
  by_cases h : k.val ≤ x.val
  · have loaded : 0 ≤ k.val ∧ k.val < 0 + (x.val + 1) := by omega
    rw [if_pos loaded, if_pos h, Nat.sub_zero, s.bytesAtIndex_getD (by omega)]
  · have kept : ¬ (0 ≤ k.val ∧ k.val < 0 + (x.val + 1)) := by omega
    rw [if_neg kept, if_neg h]; rfl

theorem writesOnly_loadRegisters (s : State) (x : Reg) :
    WritesOnly (.loadRegisters x) s (s.setRegs (writeRegsFrom s.v 0 (s.bytesAtIndex (x.val + 1)))) where
  parts := sameBut_setRegs s _
  regs r hr := (getV_after_loadRegisters s x r).trans (if_neg hr)
  mem _ := rfl

/-! The key skips (spec/45_timers_keys.md R220 to R222). -/

theorem keyDown_eq_none_iff (s : State) (idx : Byte) :
    s.keyDown idx = none ↔ s.config.keyIndexPolicy = .fault ∧ 0xF < idx.toNat := by
  rcases s.keyDown_cases idx with ⟨h, e⟩ | ⟨h, hp, e⟩ | ⟨h, hp, e⟩ | ⟨h, hp, e⟩
  · simp only [e, reduceCtorEq, false_iff, not_and]; omega
  all_goals simp [e, hp, h]

theorem exec_skipIfKeyPressed_of_some {s : State} {x : Reg} {down : Bool} (h : s.keyDown (s.getV x) = some down) :
    exec (.skipIfKeyPressed x) s = complete (s.skipIf down) := by
  simp only [exec, execSkipIfKeyPressed, h]

theorem exec_skipIfKeyPressed_of_none {s : State} {x : Reg} (h : s.keyDown (s.getV x) = none) :
    exec (.skipIfKeyPressed x) s = raiseError .keyIndexOutOfRange s := by
  simp only [exec, execSkipIfKeyPressed, h]

theorem exec_skipIfKeyNotPressed_of_some {s : State} {x : Reg} {down : Bool} (h : s.keyDown (s.getV x) = some down) :
    exec (.skipIfKeyNotPressed x) s = complete (s.skipIf (!down)) := by
  simp only [exec, execSkipIfKeyNotPressed, h]

theorem exec_skipIfKeyNotPressed_of_none {s : State} {x : Reg} (h : s.keyDown (s.getV x) = none) :
    exec (.skipIfKeyNotPressed x) s = raiseError .keyIndexOutOfRange s := by
  simp only [exec, execSkipIfKeyNotPressed, h]

/-! AwaitKey (R224). -/

theorem exec_awaitKey_of_some {s : State} {x : Reg} {k : Key} (h : s.lastKey = some k) :
    exec (.awaitKey x) s = complete (s.setV x (BitVec.ofNat 8 k.val)) := by
  simp only [exec, execAwaitKey, h]

theorem exec_awaitKey_of_none {s : State} {x : Reg} (h : s.lastKey = none) :
    exec (.awaitKey x) s = complete (s.setPc (s.pc - 2)) := by
  simp only [exec, execAwaitKey, h]

/-- The two outcomes of an instruction: it completes and writes only what it may, or it raises its error. -/
def ExecOutcome (i : Instr) (s : State) : Prop :=
  (errorOf s i = none ∧ ∃ u d, exec i s = .next (u.setResult (.ok d)) ∧ WritesOnly i s u) ∨
  (∃ k, errorOf s i = some k ∧ exec i s = raiseError k s)

theorem execOutcome_of_complete {i : Instr} {s u : State} (error : errorOf s i = none) (hexec : exec i s = complete u)
    (only : WritesOnly i s u) : ExecOutcome i s :=
  .inl ⟨error, u, none, hexec, only⟩

theorem execOutcome_of_raise {i : Instr} {s : State} {k : ErrorKind} (error : errorOf s i = some k)
    (hexec : exec i s = raiseError k s) : ExecOutcome i s :=
  .inr ⟨k, error, hexec⟩

theorem execOutcome_ret (s : State) : ExecOutcome .ret s := by
  rcases s.sp_zero_or_top with empty | ⟨k, top⟩
  · exact execOutcome_of_raise (if_pos empty) (exec_ret_of_sp_zero empty)
  · refine execOutcome_of_complete (if_neg (by omega)) (exec_ret_of_sp_succ top)
      (writesOnly_of_regs_kept ?_ rfl fun _ => rfl)
    intro p hp
    cases p <;> simp_all [SamePart, writes, State.readMem]

theorem execOutcome_call (nnn : Addr) (s : State) : ExecOutcome (.call nnn) s := by
  rcases s.sp_full_or_free with full | ⟨k, top⟩
  · exact execOutcome_of_raise (if_pos full) (exec_call_of_sp_full nnn full)
  · refine execOutcome_of_complete (if_neg (by omega)) (exec_call_of_sp_lt nnn top)
      (writesOnly_of_regs_kept ?_ rfl fun _ => rfl)
    intro p hp
    cases p <;> simp_all [SamePart, writes, State.readMem]

theorem execOutcome_drawSprite (x y : Reg) (n : Fin 16) (s : State) : ExecOutcome (.drawSprite x y n) s := by
  by_cases out : 0 < n.val ∧ 0xFFF < s.i.toNat + n.val - 1
  · exact execOutcome_of_raise (if_pos out) (exec_drawSprite_of_outOfRange x y out)
  · exact execOutcome_of_complete (if_neg out) (exec_drawSprite_of_inRange x y out) (writesOnly_drawn s x y n)

theorem execOutcome_storeBCD (x : Reg) (s : State) : ExecOutcome (.storeBCD x) s := by
  by_cases out : 0xFFF < s.i.toNat + 2
  · exact execOutcome_of_raise (if_pos out) (exec_storeBCD_of_outOfRange x out)
  · exact execOutcome_of_complete (if_neg out) (exec_storeBCD_of_inRange x (Nat.not_lt.mp out))
      (writesOnly_storeAtIndex s _ rfl)

theorem execOutcome_storeRegisters (x : Reg) (s : State) : ExecOutcome (.storeRegisters x) s := by
  by_cases out : 0xFFF < s.i.toNat + x.val
  · exact execOutcome_of_raise (if_pos out) (exec_storeRegisters_of_outOfRange out)
  · exact execOutcome_of_complete (if_neg out) (exec_storeRegisters_of_inRange (Nat.not_lt.mp out))
      (writesOnly_storeAtIndex s _ rfl)

theorem execOutcome_loadRegisters (x : Reg) (s : State) : ExecOutcome (.loadRegisters x) s := by
  by_cases out : 0xFFF < s.i.toNat + x.val
  · exact execOutcome_of_raise (if_pos out) (exec_loadRegisters_of_outOfRange out)
  · exact execOutcome_of_complete (if_neg out) (exec_loadRegisters_of_inRange (Nat.not_lt.mp out))
      (writesOnly_loadRegisters s x)

theorem execOutcome_skipIfKeyPressed (x : Reg) (s : State) : ExecOutcome (.skipIfKeyPressed x) s := by
  cases h : s.keyDown (s.getV x) with
  | none =>
    exact execOutcome_of_raise (if_pos ((keyDown_eq_none_iff s _).mp h)) (exec_skipIfKeyPressed_of_none h)
  | some down =>
    have no_error := mt (keyDown_eq_none_iff s (s.getV x)).mpr (by simp [h])
    exact execOutcome_of_complete (if_neg no_error) (exec_skipIfKeyPressed_of_some h) (writesOnly_skipIf s _ rfl)

theorem execOutcome_skipIfKeyNotPressed (x : Reg) (s : State) : ExecOutcome (.skipIfKeyNotPressed x) s := by
  cases h : s.keyDown (s.getV x) with
  | none =>
    exact execOutcome_of_raise (if_pos ((keyDown_eq_none_iff s _).mp h)) (exec_skipIfKeyNotPressed_of_none h)
  | some down =>
    have no_error := mt (keyDown_eq_none_iff s (s.getV x)).mpr (by simp [h])
    exact execOutcome_of_complete (if_neg no_error) (exec_skipIfKeyNotPressed_of_some h) (writesOnly_skipIf s _ rfl)

theorem execOutcome_awaitKey (x : Reg) (s : State) : ExecOutcome (.awaitKey x) s := by
  cases h : s.lastKey with
  | none =>
    exact execOutcome_of_complete rfl (exec_awaitKey_of_none h)
      (writesOnly_of_regs_kept ((sameBut_setPc s _).mono (by simp [writes])) rfl fun _ => rfl)
  | some k =>
    exact execOutcome_of_complete rfl (exec_awaitKey_of_some h)
      ⟨(sameBut_setV s x _).mono (by simp [writes]), s.sameRegsBut_setV x _, fun _ => rfl⟩

/-- Every instruction, in every state, has one of the two outcomes. -/
theorem exec_outcome (i : Instr) (s : State) : ExecOutcome i s := by
  cases i
  case ret => exact execOutcome_ret s
  case call nnn => exact execOutcome_call nnn s
  case drawSprite x y n => exact execOutcome_drawSprite x y n s
  case storeBCD x => exact execOutcome_storeBCD x s
  case storeRegisters x => exact execOutcome_storeRegisters x s
  case loadRegisters x => exact execOutcome_loadRegisters x s
  case skipIfKeyPressed x => exact execOutcome_skipIfKeyPressed x s
  case skipIfKeyNotPressed x => exact execOutcome_skipIfKeyNotPressed x s
  case awaitKey x => exact execOutcome_awaitKey x s
  case callNative nnn =>
    exact .inl ⟨rfl, s, _, exec_callNative nnn s, ⟨SameBut.refl _ s, fun _ _ => rfl, fun _ => rfl⟩⟩
  case clearDisplay =>
    exact execOutcome_of_complete rfl rfl (writesOnly_of_regs_kept (sameBut_setDisp s _) rfl fun _ => rfl)
  case loadDelayTimer =>
    exact execOutcome_of_complete rfl rfl (writesOnly_of_regs_kept (sameBut_setDt s _) rfl fun _ => rfl)
  case loadSoundTimer =>
    exact execOutcome_of_complete rfl rfl (writesOnly_of_regs_kept (sameBut_setSt s _) rfl fun _ => rfl)
  case jump | jumpWithOffset => exact execOutcome_of_complete rfl rfl (writesOnly_setPc s _ rfl)
  case setIndex | addToIndex | loadFontAddress => exact execOutcome_of_complete rfl rfl (writesOnly_setI s _ rfl)
  case skipIfEqualImmediate | skipIfNotEqualImmediate | skipIfRegistersEqual | skipIfRegistersNotEqual =>
    exact execOutcome_of_complete rfl rfl (writesOnly_skipIf s _ rfl)
  case add | sub | subReverse =>
    exact execOutcome_of_complete rfl rfl (writesOnly_writeResultThenFlag s _ _ rfl rfl)
  case shiftRight | shiftLeft => exact execOutcome_of_complete rfl rfl (writesOnly_shiftWith s _ _ _ rfl rfl)
  case loadImmediate | addImmediate | copy | or | and | xor | loadRandomMasked | loadFromDelayTimer =>
    exact execOutcome_of_complete rfl rfl (writesOnly_setV s _ rfl rfl)

end Sys2Proof.Machine
end

section
/-! What an instruction and a step keep and raise: the statements about which of them write and raise what. -/

namespace Sys2Proof.Machine

/-- The outcomes of an instruction from the state it answered. -/
theorem exec_next_cases {i : Instr} {s t : State} (h : exec i s = .next t) :
    (errorOf s i = none ∧ ∃ u d, t = u.setResult (.ok d) ∧ WritesOnly i s u) ∨
    (∃ k, errorOf s i = some k ∧ t = s.withError k) := by
  rcases exec_outcome i s with ⟨error, u, d, hexec, only⟩ | ⟨k, error, hexec⟩ <;> rw [hexec] at h <;> cases h
  · exact .inl ⟨error, u, d, rfl, only⟩
  · exact .inr ⟨k, error, rfl⟩

/-- An instruction keeps every part it may not write, but for the step's result and the record `faulted`. -/
theorem exec_samePart {i : Instr} {s t : State} (h : exec i s = .next t) {p : Part} (hw : p ∉ writes i)
    (hp : p ∉ [Part.result, .faulted]) : SamePart s t p := by
  have not_result : p ∉ [Part.result] := fun hr => hp (List.mem_cons.mpr (.inl (List.mem_singleton.mp hr)))
  rcases exec_next_cases h with ⟨-, u, d, rfl, only⟩ | ⟨k, -, rfl⟩
  · exact (only.parts p hw).trans (sameBut_setResult u _ p not_result)
  · exact sameBut_withError s k p hp

/-- An instruction keeps every general register it may not write. -/
theorem exec_sameRegs {i : Instr} {s t : State} (h : exec i s = .next t) : SameRegsBut (writesReg i) s t := by
  rcases exec_next_cases h with ⟨-, u, d, rfl, only⟩ | ⟨k, -, rfl⟩
  · exact only.regs
  · exact fun _ _ => rfl

/-- The record `faulted` after an instruction: kept where the result is OK, else the first error. -/
theorem exec_faulted {i : Instr} {s t : State} (h : exec i s = .next t) :
    (∃ d, t.result = .ok d ∧ t.faulted = s.faulted) ∨
    (∃ k, t.result = .err k ∧ t.faulted = some (s.faulted.getD k)) := by
  rcases exec_next_cases h with ⟨-, u, d, rfl, only⟩ | ⟨k, -, rfl⟩
  · have faulted_not_written : Part.faulted ∉ writes i := by cases i <;> simp [writes]
    exact .inl ⟨d, rfl, only.parts .faulted faulted_not_written⟩
  · exact .inr ⟨k, rfl, rfl⟩

/-- The result of an instruction is the error that `errorOf` names. -/
theorem exec_result_eq_err_iff {i : Instr} {s t : State} (h : exec i s = .next t) (k : ErrorKind) :
    t.result = .err k ↔ errorOf s i = some k := by
  rcases exec_next_cases h with ⟨error, u, d, rfl, -⟩ | ⟨k', error, rfl⟩ <;> simp [error]

theorem errorOf_ne_pcOutOfRange (s : State) (i : Instr) : errorOf s i ≠ some .pcOutOfRange := by
  cases i <;> simp [errorOf]

/-! The writers of each part. -/

theorem stack_not_mem_writes {i : Instr} (h : ∀ nnn, i ≠ .call nnn) : .stack ∉ writes i := by
  cases i <;> simp_all [writes]

theorem sp_not_mem_writes {i : Instr} (h : ∀ nnn, i ≠ .call nnn) (hret : i ≠ .ret) : .sp ∉ writes i := by
  cases i <;> simp_all [writes]

theorem mem_not_mem_writes {i : Instr} (h : ∀ x, i ≠ .storeBCD x ∧ i ≠ .storeRegisters x) : .mem ∉ writes i := by
  cases i <;> simp_all [writes]

theorem disp_not_mem_writes {i : Instr} (hcls : i ≠ .clearDisplay) (h : ∀ x y n, i ≠ .drawSprite x y n) :
    .disp ∉ writes i := by
  cases i <;> simp_all [writes]

theorem i_not_mem_writes {i : Instr} (hset : ∀ nnn, i ≠ .setIndex nnn)
    (h : ∀ x, i ≠ .addToIndex x ∧ i ≠ .loadFontAddress x) : .i ∉ writes i := by
  cases i <;> simp_all [writes]

theorem dt_not_mem_writes {i : Instr} (h : ∀ x, i ≠ .loadDelayTimer x) : .dt ∉ writes i := by
  cases i <;> simp_all [writes]

theorem st_not_mem_writes {i : Instr} (h : ∀ x, i ≠ .loadSoundTimer x) : .st ∉ writes i := by
  cases i <;> simp_all [writes]

theorem unwritten_not_mem_writes {p : Part} (hp : p ∈ [Part.keys, .lastKey, .config]) (i : Instr) : p ∉ writes i := by
  obtain rfl | rfl | rfl : p = .keys ∨ p = .lastKey ∨ p = .config := by simpa using hp
  all_goals cases i <;> simp [writes]

/-- Settles O23. -/
theorem onlyCallAndReturnMoveTheStack : Obligations.OnlyCallAndReturnMoveTheStack := by
  unfold Obligations.OnlyCallAndReturnMoveTheStack
  intro i s t h
  exact ⟨fun hcall => exec_samePart h (stack_not_mem_writes hcall) (by decide),
    fun hcall hret => exec_samePart h (sp_not_mem_writes hcall hret) (by decide)⟩

/-- Settles O24. -/
theorem memoryDisplayIndexAndTimersHaveOnlyTheirWriters :
    Obligations.MemoryDisplayIndexAndTimersHaveOnlyTheirWriters := by
  unfold Obligations.MemoryDisplayIndexAndTimersHaveOnlyTheirWriters
  intro i s t h
  exact ⟨fun hstore => exec_samePart h (mem_not_mem_writes hstore) (by decide),
    fun hcls hdraw => exec_samePart h (disp_not_mem_writes hcls hdraw) (by decide),
    fun hset hindex => exec_samePart h (i_not_mem_writes hset hindex) (by decide),
    fun hdt => exec_samePart h (dt_not_mem_writes hdt) (by decide),
    fun hst => exec_samePart h (st_not_mem_writes hst) (by decide)⟩

/-- Settles O26: where VF is not among the registers an instruction may write it is kept, and where it is, the
instruction is one of those listed. -/
theorem flagRegisterHasOnlyItsWriters : Obligations.FlagRegisterHasOnlyItsWriters := by
  unfold Obligations.FlagRegisterHasOnlyItsWriters
  intro i s t h
  by_cases written : writesReg i 0xF
  · right
    cases i <;> simp_all [writesReg]
    case loadRegisters x => exact Fin.ext (by have := x.isLt; omega)
  · exact .inl (exec_sameRegs h 0xF written)

/-- Settles O21: the errors of `errorOf`, instruction by instruction. -/
theorem instructionsRaiseExactlyTheNamedErrors : Obligations.InstructionsRaiseExactlyTheNamedErrors := by
  unfold Obligations.InstructionsRaiseExactlyTheNamedErrors
  intro i s t k h
  rw [exec_result_eq_err_iff h]
  cases i <;> simp [errorOf, eq_comm, and_comm, and_assoc]

end Sys2Proof.Machine
end

section
/-! The step (spec/40_step.md R101 to R107): that it answers, what it runs, and what it keeps. -/

namespace Sys2Proof.Machine

/-- Settles O19: the fetch, a word that does not decode and every instruction answer a next state. -/
theorem everyStepAnswersANextState : Obligations.EveryStepAnswersANextState := by
  unfold Obligations.EveryStepAnswersANextState
  intro rnd s
  by_cases hpc : s.pc.toNat ≤ 0xFFE
  · rw [stepWith_of_canFetch rnd hpc]
    cases hd : decodeWord s.fetchWord with
    | error e => exact ⟨_, by rw [execWord_of_unknown hd]; rfl⟩
    | ok i =>
      rw [execWord_of_decoded hd]
      rcases exec_shape i (s.setRnd rnd).advancePc with ⟨u, d, answers⟩ | ⟨k, answers⟩ <;>
        exact ⟨_, by rw [answers]; rfl⟩
  · exact ⟨_, stepWith_of_not_canFetch rnd (Nat.not_le.mp hpc)⟩

/-- A step that decodes answers what the instruction answers, ended. -/
theorem stepWith_of_exec {rnd : Byte} {s t : State} {i : Instr} (hpc : s.pc.toNat ≤ 0xFFE)
    (decoded : decodeWord s.fetchWord = .ok i) (hexec : exec i (s.setRnd rnd).advancePc = .next t) :
    stepWith rnd s = .next t.endStep := by
  rw [stepWith_of_canFetch rnd hpc, execWord_of_decoded decoded, hexec]; rfl

theorem State.tick_eq_afterTick (s : State) : s.tick = { s with dt := afterTick s.dt, st := afterTick s.st } := by
  rw [← countDown_eq_afterTick, ← countDown_eq_afterTick]; rfl

/-- Settles O16: the end of the step is the tick by result and mode. -/
theorem stepRunsTheDecodedInstruction : Obligations.StepRunsTheDecodedInstruction := by
  unfold Obligations.StepRunsTheDecodedInstruction
  intro s i hpc decoded
  simp only [← State.tick_eq_afterTick, ← State.endStep_eq]
  exact ⟨fun rnd t hexec => stepWith_of_exec hpc decoded hexec,
    fun t hexec => stepWith_of_exec (s := s.nextDraw) hpc decoded hexec⟩

/-- Settles O17: the word only reports its diagnostic. -/
theorem decodeFailureIsANoOpStep : Obligations.DecodeFailureIsANoOpStep := by
  unfold Obligations.DecodeFailureIsANoOpStep
  intro rnd s e hpc fails
  exact steps_of_completeWith hpc (execWord_of_unknown fails _)

/-- Settles O18: the step puts the error on the state, and so does the next one, whose pc is the same. -/
theorem fetchOutsideMemoryChangesNothing : Obligations.FetchOutsideMemoryChangesNothing := by
  unfold Obligations.FetchOutsideMemoryChangesNothing
  intro rnd s hpc
  refine ⟨_, stepWith_of_not_canFetch rnd hpc, ?frame, rfl, rfl, fun rnd' => ?again⟩
  case frame => exact ((sameBut_setRnd s rnd).mono (by decide)).trans ((sameBut_withError _ _).mono (by decide))
  case again =>
    refine ⟨_, stepWith_of_not_canFetch rnd' hpc, fun p hp => ?_, rfl⟩
    cases p <;> simp_all [SamePart]

@[simp] theorem State.endStep_faulted (s : State) : s.endStep.faulted = s.faulted :=
  sameBut_endStep s .faulted (by decide)

@[simp] theorem State.endStep_withError (s : State) (k : ErrorKind) : (s.withError k).endStep = s.withError k := by
  simp [State.endStep_eq]

/-- What a step that errs leaves: the state it had, with the random byte taken and the error put on it, and pc advanced
where the fetch was possible. -/
theorem stepWith_erring {rnd : Byte} {s t : State} {k : ErrorKind} (h : stepWith rnd s = .next t)
    (err : t.result = .err k) :
    (k = .pcOutOfRange ∧ t = (s.setRnd rnd).withError k) ∨
    (k ≠ .pcOutOfRange ∧ t = (s.setRnd rnd).advancePc.withError k) := by
  rcases stepWith_cases h with ⟨-, rfl⟩ | ⟨-, -, rfl⟩ | ⟨-, i, u, -, hexec, rfl⟩
  · cases err; exact .inl ⟨rfl, rfl⟩
  · simp at err
  · rw [State.endStep_result] at err
    have raised := (exec_result_eq_err_iff hexec k).mp err
    have named : k ≠ .pcOutOfRange := fun e => errorOf_ne_pcOutOfRange _ i (e ▸ raised)
    exact .inr ⟨named, by rw [exec_raised hexec err, State.endStep_withError]⟩

/-- Settles O20. -/
theorem erringStepChangesOnlyPc : Obligations.ErringStepChangesOnlyPc := by
  unfold Obligations.ErringStepChangesOnlyPc
  intro rnd s t k h err
  rcases stepWith_erring h err with ⟨hk, rfl⟩ | ⟨hk, rfl⟩
  · refine ⟨?_, fun _ => rfl, fun hne => absurd hk hne⟩
    exact ((sameBut_setRnd s rnd).mono (by decide)).trans ((sameBut_withError _ _).mono (by decide))
  · refine ⟨?_, fun he => absurd he hk, fun _ => rfl⟩
    exact ((sameBut_fetch rnd s).mono (by decide)).trans ((sameBut_withError _ _).mono (by decide))

/-- The record `faulted` after a step: kept where the result is OK, else the first error
(spec/60_exceptions.md R257). -/
theorem stepWith_faulted {rnd : Byte} {s t : State} (h : stepWith rnd s = .next t) :
    (∃ d, t.result = .ok d ∧ t.faulted = s.faulted) ∨
    (∃ k, t.result = .err k ∧ t.faulted = some (s.faulted.getD k)) := by
  rcases stepWith_cases h with ⟨-, rfl⟩ | ⟨-, -, rfl⟩ | ⟨-, i, u, -, hexec, rfl⟩
  · exact .inr ⟨_, rfl, rfl⟩
  · exact .inl ⟨_, State.endStep_result _, State.endStep_faulted _⟩
  · simpa using exec_faulted hexec

/-- Settles O22. -/
theorem faultedKeepsTheFirstError : Obligations.FaultedKeepsTheFirstError := by
  unfold Obligations.FaultedKeepsTheFirstError
  intro rnd s t h
  rcases stepWith_faulted h with ⟨d, result, faulted⟩ | ⟨k, result, faulted⟩
  · exact ⟨fun k hk => faulted.trans hk, fun hn k => by simp [result, faulted, hn]⟩
  · exact ⟨fun k' hk' => by simp [faulted, hk'], fun hn k' => by simp [result, faulted, hn]⟩

/-- A step keeps a part that no instruction, no fetch and no end of a step writes. -/
theorem stepWith_samePart {rnd : Byte} {s t : State} (h : stepWith rnd s = .next t) {p : Part}
    (hw : ∀ i, p ∉ writes i) (hp : p ∉ [Part.pc, .rnd, .result, .faulted, .dt, .st]) : SamePart s t p := by
  obtain ⟨hpc, hrnd, hresult, hfaulted, hdt, hst⟩ :
      p ≠ .pc ∧ p ≠ .rnd ∧ p ≠ .result ∧ p ≠ .faulted ∧ p ≠ .dt ∧ p ≠ .st := by simpa using hp
  have fetch : SamePart s (s.setRnd rnd).advancePc p := sameBut_fetch rnd s p (by simp [hpc, hrnd])
  have step_end (u : State) : SamePart u u.endStep p := sameBut_endStep u p (by simp [hdt, hst])
  rcases stepWith_cases h with ⟨-, rfl⟩ | ⟨-, -, rfl⟩ | ⟨-, i, u, -, hexec, rfl⟩
  · exact (sameBut_setRnd s rnd p (by simp [hrnd])).trans (sameBut_withError _ _ p (by simp [hresult, hfaulted]))
  · exact (fetch.trans (sameBut_setResult _ _ p (by simp [hresult]))).trans (step_end _)
  · exact (fetch.trans (exec_samePart hexec (hw i) (by simp [hresult, hfaulted]))).trans (step_end u)

/-- Settles O25. -/
theorem noStepWritesTheKeypadOrTheParameters : Obligations.NoStepWritesTheKeypadOrTheParameters := by
  unfold Obligations.NoStepWritesTheKeypadOrTheParameters
  intro rnd s t h
  exact ⟨stepWith_samePart h (unwritten_not_mem_writes (p := .keys) (by decide)) (by decide),
    stepWith_samePart h (unwritten_not_mem_writes (p := .lastKey) (by decide)) (by decide),
    stepWith_samePart h (unwritten_not_mem_writes (p := .config) (by decide)) (by decide)⟩

theorem atStepEnd_of_config_eq {s t : State} (h : t.config = s.config) (b : Byte) : atStepEnd t b = atStepEnd s b := by
  rw [atStepEnd, atStepEnd, h]

theorem State.endStep_of_not_isOk {s : State} (h : s.result.isOk = false) : s.endStep = s := by
  simp [State.endStep_eq, h]

/-- The timers at the end of a step, from those the execution left. -/
theorem endStep_timers {s u : State} (config : u.config = s.config) (dt : u.dt = s.dt) (st : u.st = s.st) :
    (u.endStep.result.isOk = true → u.endStep.dt = atStepEnd s s.dt ∧ u.endStep.st = atStepEnd s s.st) ∧
    (u.endStep.result.isOk = false → u.endStep.dt = s.dt ∧ u.endStep.st = s.st) := by
  rw [State.endStep_result]
  refine ⟨fun ok => ?_, fun err => ?_⟩
  · rw [← dt, ← st, ← atStepEnd_of_config_eq config, ← atStepEnd_of_config_eq config]
    exact State.endStep_timers_of_isOk ok
  · rw [State.endStep_of_not_isOk err]
    exact ⟨dt, st⟩

/-- Settles O57: but for the timer loads, the execution leaves both timers as they were. -/
theorem stepTicksOnlyAtItsOkEnd : Obligations.StepTicksOnlyAtItsOkEnd := by
  unfold Obligations.StepTicksOnlyAtItsOkEnd
  intro rnd s t h no_timer_load
  rcases stepWith_cases h with ⟨-, rfl⟩ | ⟨-, -, rfl⟩ | ⟨-, i, u, decoded, hexec, rfl⟩
  · exact ⟨fun ok => by simp at ok, fun _ => ⟨rfl, rfl⟩⟩
  · exact endStep_timers rfl rfl rfl
  · have no_dt : ∀ x, i ≠ .loadDelayTimer x := fun x e => (no_timer_load x).1 (e ▸ decoded)
    have no_st : ∀ x, i ≠ .loadSoundTimer x := fun x e => (no_timer_load x).2 (e ▸ decoded)
    exact endStep_timers (exec_samePart hexec (unwritten_not_mem_writes (p := .config) (by decide) i) (by decide))
      (exec_samePart hexec (dt_not_mem_writes no_dt) (by decide))
      (exec_samePart hexec (st_not_mem_writes no_st) (by decide))

end Sys2Proof.Machine
end

section
/-! Construction (spec/70_reset_and_hazards.md R280, R281; spec/10_state.md R35): what memory reads as after it. -/

namespace Sys2Proof.Machine

@[simp] theorem loadedImage_length (image : List Byte) : (image.take maxImage).length = min image.length 3584 :=
  (List.length_take).trans (Nat.min_comm _ _)

@[simp] theorem font_length (cfg : Config) : cfg.font.toList.length = 80 := Vector.length_toList

/-- Memory after Construct: the image from 0x200 on where it is loaded, the font at 0x000, and the background. -/
theorem read_constructMemory (cfg : Config) (image : List Byte) (a : Nat) :
    Memory.read (constructMemory cfg image) a =
      if 0x200 ≤ a ∧ a < 0x200 + min image.length 3584 then (image.take maxImage).getD (a - 0x200) 0
      else if a < 80 then cfg.font.toList.getD a 0 else Memory.background a := by
  simp only [constructMemory, Memory.read_writeBytes, loadedImage_length, font_length, Memory.read, entry, Nat.zero_le,
    true_and, Nat.zero_add, Nat.sub_zero]

theorem wf_constructMemory (cfg : Config) (image : List Byte) : Memory.wf (constructMemory cfg image) = true := by
  have font_wf : Memory.wf (Memory.writeBytes [] 0 cfg.font.toList) = true :=
    Memory.wf_writeBytes _ rfl (by simp [memSize])
  exact Memory.wf_writeBytes _ font_wf (by rw [loadedImage_length]; simp only [entry, memSize]; omega)

theorem background_of_ge {a : Nat} (h : 80 ≤ a) : Memory.background a = 0 :=
  List.getD_eq_default _ _ h

/-- Settles O7: memory region by region, every other field as the construction writes it. -/
theorem constructSetsEveryPieceOfState : Obligations.ConstructSetsEveryPieceOfState := by
  unfold Obligations.ConstructSetsEveryPieceOfState
  intro cfg image t len
  have reads (a : Nat) : t.readMem a = _ := read_constructMemory cfg image a
  have blank : t.disp = Vector.replicate 32 0 := rfl
  refine ⟨fun k => ?font, fun k hk => ?image, fun a font_below lt outside => ?zero, fun r => ?regs, rfl, rfl,
    fun k => ?stack, rfl, State.pixel_of_disp_blank blank, rfl, rfl, rfl, rfl, rfl, rfl, fun s hs => ?event⟩
  case font =>
    have lt := k.isLt
    rw [reads, if_neg (by omega), if_pos lt, List.getD_eq_getElem _ _ (by simp)]
    simp [Vector.get_eq_getElem]
  case image =>
    have loaded : k < (image.take maxImage).length := by rw [loadedImage_length]; exact hk
    have in_image : k < image.length := by omega
    rw [reads, if_pos (by omega), Nat.add_sub_cancel_left, List.getD_eq_getElem _ _ loaded, List.getElem_take,
      List.getD_eq_getElem _ _ in_image]
  case zero => rw [reads, if_neg (by omega), if_neg (by omega), background_of_ge font_below]
  case regs => exact Vector.get_replicate ..
  case stack => exact Vector.get_replicate ..
  case event => simp only [handle, hs]; rfl

/-- Without an image and with the default font, memory after Construct is the background, whose canonical form lists
nothing (log 7). -/
theorem constructMemory_default : constructMemory Config.default [] = [] := by
  refine Memory.eq_of_wfFrom (wf_constructMemory _ _) (lo := 0) rfl fun a _ _ => ?_
  rw [read_constructMemory, if_neg (by simp)]
  split <;> rfl

/-- Settles O8. -/
theorem resetIsConstructWithDefaults : Obligations.ResetIsConstructWithDefaults := by
  unfold Obligations.ResetIsConstructWithDefaults
  exact ⟨by rw [State.construct, constructMemory_default]; rfl, rfl, rfl, rfl, rfl⟩

end Sys2Proof.Machine
end

section
/-! The invariant of spec/10_state.md R26: every step and every host event keep it. -/

namespace Sys2Proof.Machine

theorem State.Inv.of_same {s t : State} (h : s.Inv) (mem : t.mem = s.mem) (pc : t.pc = s.pc)
    (stack : t.stack = s.stack) : t.Inv where
  mem_wf := mem ▸ h.mem_wf
  pc_le := pc ▸ h.pc_le
  stack_le := stack ▸ h.stack_le

theorem construct_inv (cfg : Config) (image : List Byte) : (State.construct cfg image).Inv where
  mem_wf := wf_constructMemory cfg image
  pc_le := (by decide : (0x200 : Word).toNat ≤ 0x10FE)
  stack_le k := by
    have zero : (State.construct cfg image).stack.get k = 0 := Vector.get_replicate ..
    simp [zero]

/-- Settles O9: the reset state is a constructed one. -/
theorem resetMeetsTheInvariant : Obligations.ResetMeetsTheInvariant := by
  unfold Obligations.ResetMeetsTheInvariant
  obtain ⟨reset_eq, -⟩ := resetIsConstructWithDefaults
  exact reset_eq ▸ construct_inv _ _

/-- What the invariant gives an instruction after the fetch: pc is the address behind it, at most 0x1000, and leaves
room for AwaitKey to roll it back. -/
structure Fetched (s : State) : Prop where
  mem_wf : Memory.wf s.mem = true
  two_le_pc : 2 ≤ s.pc.toNat
  pc_le : s.pc.toNat ≤ 0x1000
  stack_le : ∀ k : Fin 16, (s.stack.get k).toNat ≤ 0x1000

theorem toNat_add_two {w : Word} (h : w.toNat ≤ 0xFFFD) : (w + 2).toNat = w.toNat + 2 := by
  have two : (2 : Word).toNat = 2 := rfl
  rw [BitVec.toNat_add, two]; omega

theorem toNat_sub_two {w : Word} (h : 2 ≤ w.toNat) : (w - 2).toNat = w.toNat - 2 :=
  BitVec.toNat_sub_of_le h

theorem toNat_zext16_addr (nnn : Addr) : (zext16 nnn).toNat = nnn.toNat := BitVec.toNat_setWidth_of_le (by decide)

theorem toNat_zext16_byte (b : Byte) : (zext16 b).toNat = b.toNat := BitVec.toNat_setWidth_of_le (by decide)

/-- The target of JumpWithOffset does not wrap (spec/41_control_flow.md R125). -/
theorem toNat_jumpTarget (nnn : Addr) (b : Byte) : (zext16 nnn + zext16 b).toNat = nnn.toNat + b.toNat := by
  have hn := nnn.isLt
  have hb := b.isLt
  rw [BitVec.toNat_add, toNat_zext16_addr, toNat_zext16_byte]; omega

theorem fetched_of_inv {s : State} (rnd : Byte) (h : s.Inv) (hpc : s.pc.toNat ≤ 0xFFE) :
    Fetched (s.setRnd rnd).advancePc := by
  have pc : (s.setRnd rnd).advancePc.pc.toNat = s.pc.toNat + 2 := toNat_add_two (w := s.pc) (by omega)
  exact ⟨h.mem_wf, by omega, by omega, h.stack_le⟩

theorem Fetched.inv {s : State} (h : Fetched s) : s.Inv := ⟨h.mem_wf, h.pc_le.trans (by decide), h.stack_le⟩

/-- An instruction keeps the data of memory it may not write. -/
theorem exec_mem_eq {i : Instr} {s t : State} (h : exec i s = .next t) (hw : .mem ∉ writes i) : t.mem = s.mem := by
  rcases exec_next_cases h with ⟨-, u, d, rfl, only⟩ | ⟨k, -, rfl⟩
  · exact only.mem hw
  · rfl

theorem storeAtIndex_wf {s : State} {bs : List Byte} (wf : Memory.wf s.mem = true)
    (range : s.i.toNat + bs.length ≤ memSize) : Memory.wf (s.storeAtIndex bs).mem = true :=
  Memory.wf_writeBytes bs wf range

/-- The two stores keep the canonical form: each has checked its range. -/
theorem exec_mem_wf {i : Instr} {s t : State} (h : exec i s = .next t) (wf : Memory.wf s.mem = true) :
    Memory.wf t.mem = true := by
  by_cases hw : .mem ∈ writes i
  · cases i <;> simp [writes] at hw
    case storeBCD x =>
      by_cases range : s.i.toNat + 2 ≤ 0xFFF
      · rw [exec_storeBCD_of_inRange x range] at h; cases h
        exact storeAtIndex_wf wf (by rw [bcdDigits_length]; simp only [memSize]; omega)
      · rw [exec_storeBCD_of_outOfRange x (Nat.not_le.mp range)] at h; cases h; exact wf
    case storeRegisters x =>
      by_cases range : s.i.toNat + x.val ≤ 0xFFF
      · rw [exec_storeRegisters_of_inRange range] at h; cases h
        exact storeAtIndex_wf wf (by rw [State.regsUpTo_length]; simp only [memSize]; omega)
      · rw [exec_storeRegisters_of_outOfRange (Nat.not_le.mp range)] at h; cases h; exact wf
  · exact exec_mem_eq h hw ▸ wf

/-- Call pushes the advanced pc, which is at most 0x1000. -/
theorem exec_stack_le {i : Instr} {s t : State} (h : exec i s = .next t) (hs : Fetched s) (k : Fin 16) :
    (t.stack.get k).toNat ≤ 0x1000 := by
  by_cases hw : .stack ∈ writes i
  · cases i <;> simp [writes] at hw
    case call nnn =>
      rcases s.sp_full_or_free with full | ⟨j, top⟩
      · rw [exec_call_of_sp_full nnn full] at h; cases h; exact hs.stack_le k
      · rw [exec_call_of_sp_lt nnn top] at h; cases h
        show ((s.stack.set j.val s.pc j.isLt).get k).toNat ≤ 0x1000
        rw [get_set_entry]
        split
        · exact hs.pc_le
        · exact hs.stack_le k
  · have stack_eq : t.stack = s.stack := exec_samePart h hw (by decide)
    exact stack_eq ▸ hs.stack_le k

theorem skipIf_pc_le {s : State} (hs : Fetched s) (c : Bool) : (s.skipIf c).pc.toNat ≤ 0x10FE := by
  have skipped : (s.pc + 2).toNat = s.pc.toNat + 2 := toNat_add_two (hs.pc_le.trans (by decide))
  have pc_le := hs.pc_le
  rw [State.skipIf_eq, State.setPc_pc]
  split <;> omega

/-- Each instruction that moves pc leaves it at most 0x10FE; JumpWithOffset reaches that bound. -/
theorem exec_pc_le {i : Instr} {s t : State} (h : exec i s = .next t) (hs : Fetched s) : t.pc.toNat ≤ 0x10FE := by
  have kept : s.pc.toNat ≤ 0x10FE := hs.inv.pc_le
  by_cases hw : .pc ∈ writes i
  · cases i <;> simp [writes] at hw
    case ret =>
      rcases s.sp_zero_or_top with empty | ⟨k, top⟩
      · rw [exec_ret_of_sp_zero empty] at h; cases h; exact kept
      · rw [exec_ret_of_sp_succ top] at h; cases h
        exact (hs.stack_le _).trans (by decide)
    case jump nnn =>
      cases h
      exact (toNat_zext16_addr nnn).trans_le (nnn.isLt.le.trans (by decide))
    case call nnn =>
      rcases s.sp_full_or_free with full | ⟨k, top⟩
      · rw [exec_call_of_sp_full nnn full] at h; cases h; exact kept
      · rw [exec_call_of_sp_lt nnn top] at h; cases h
        exact (toNat_zext16_addr nnn).trans_le (nnn.isLt.le.trans (by decide))
    case jumpWithOffset nnn =>
      cases h
      have address := nnn.isLt
      have offset := (s.getV 0).isLt
      exact (toNat_jumpTarget nnn (s.getV 0)).trans_le (by omega)
    case awaitKey x =>
      cases key : s.lastKey with
      | none =>
        rw [exec_awaitKey_of_none key] at h; cases h
        exact (toNat_sub_two hs.two_le_pc).trans_le (by omega)
      | some k => rw [exec_awaitKey_of_some key] at h; cases h; exact kept
    case skipIfKeyPressed x =>
      cases down : s.keyDown (s.getV x) with
      | none => rw [exec_skipIfKeyPressed_of_none down] at h; cases h; exact kept
      | some c => rw [exec_skipIfKeyPressed_of_some down] at h; cases h; exact skipIf_pc_le hs _
    case skipIfKeyNotPressed x =>
      cases down : s.keyDown (s.getV x) with
      | none => rw [exec_skipIfKeyNotPressed_of_none down] at h; cases h; exact kept
      | some c => rw [exec_skipIfKeyNotPressed_of_some down] at h; cases h; exact skipIf_pc_le hs _
    all_goals cases h; exact skipIf_pc_le hs _
  · have pc_eq : t.pc = s.pc := exec_samePart h hw (by decide)
    exact pc_eq ▸ kept

theorem exec_inv {i : Instr} {s t : State} (h : exec i s = .next t) (hs : Fetched s) : t.Inv :=
  ⟨exec_mem_wf h hs.mem_wf, exec_pc_le h hs, exec_stack_le h hs⟩

theorem State.Inv.endStep {s : State} (h : s.Inv) : s.endStep.Inv := by
  rw [State.endStep_eq]
  split
  · exact h.of_same rfl rfl rfl
  · exact h

theorem stepWith_inv {rnd : Byte} {s t : State} (hs : s.Inv) (h : stepWith rnd s = .next t) : t.Inv := by
  rcases stepWith_cases h with ⟨-, rfl⟩ | ⟨hpc, -, rfl⟩ | ⟨hpc, i, u, -, hexec, rfl⟩
  · exact hs.of_same rfl rfl rfl
  · exact State.Inv.endStep (State.Inv.of_same (fetched_of_inv rnd hs hpc).inv rfl rfl rfl)
  · exact (exec_inv hexec (fetched_of_inv rnd hs hpc)).endStep

/-- Settles O10: the step is the step with a random byte, from the state whose counter of draws has moved. -/
theorem stepKeepsTheInvariant : Obligations.StepKeepsTheInvariant := by
  unfold Obligations.StepKeepsTheInvariant
  intro s t hs h
  exact stepWith_inv (s := s.nextDraw) (hs.of_same rfl rfl rfl) h

/-- Settles O11, event by event. -/
theorem hostEventsKeepTheInvariant : Obligations.HostEventsKeepTheInvariant := by
  unfold Obligations.HostEventsKeepTheInvariant
  intro e s t hs h
  cases e with
  | construct image => cases h; exact (construct_inv s.config image).of_same rfl rfl rfl
  | step rnd => exact stepWith_inv hs h
  | keyRefresh mask => cases h; exact hs.of_same rfl rfl rfl
  | timerTick =>
    cases mode : s.config.timerTickMode with
    | perStep => simp [handle, hostTick, mode] at h
    | hostTick =>
      simp only [handle, hostTick, mode] at h
      cases h
      exact hs.of_same rfl rfl rfl
  | observe => cases h; exact hs

end Sys2Proof.Machine
end

section
/-! What no step observes: the sound timer (spec/10_state.md R30) and the stale entries of the return stack (R27). Both
are a relation of states that the fetch, every instruction and the end of a step keep. -/

namespace Sys2Proof.Machine

/-- The state with another sound timer and another return stack. -/
def State.withUnread (s : State) (b : Byte) (stk : Vector Word 16) : State := { s with st := b, stack := stk }

/-- A result with its next state changed. -/
def mapNext (f : State → State) : Result → Result
  | .next t => .next (f t)
  | .fault r => .fault r
  | .refused r => .refused r

/-- But for Call, Return and LoadSoundTimer, an instruction does the same whatever ST and the stack hold, and leaves
them as they are. -/
theorem exec_withUnread {i : Instr} (hcall : ∀ nnn, i ≠ .call nnn) (hret : i ≠ .ret)
    (hst : ∀ x, i ≠ .loadSoundTimer x) (s : State) (b : Byte) (stk : Vector Word 16) :
    exec i (s.withUnread b stk) = mapNext (·.withUnread b stk) (exec i s) := by
  cases i
  case call nnn => exact absurd rfl (hcall nnn)
  case ret => exact absurd rfl hret
  case loadSoundTimer x => exact absurd rfl (hst x)
  case skipIfEqualImmediate | skipIfNotEqualImmediate | skipIfRegistersEqual | skipIfRegistersNotEqual =>
    simp only [exec, execSkipIfEqualImmediate, execSkipIfNotEqualImmediate, execSkipIfRegistersEqual,
      execSkipIfRegistersNotEqual, State.skipIf_eq]
    rfl
  case drawSprite x y n =>
    by_cases out : 0 < n.val ∧ 0xFFF < s.i.toNat + n.val - 1
    · rw [exec_drawSprite_of_outOfRange x y out, exec_drawSprite_of_outOfRange (s := s.withUnread b stk) x y out]; rfl
    · rw [exec_drawSprite_of_inRange x y out, exec_drawSprite_of_inRange (s := s.withUnread b stk) x y out]; rfl
  case storeBCD x =>
    by_cases range : s.i.toNat + 2 ≤ 0xFFF
    · rw [exec_storeBCD_of_inRange x range, exec_storeBCD_of_inRange (s := s.withUnread b stk) x range]; rfl
    · have out := Nat.not_le.mp range
      rw [exec_storeBCD_of_outOfRange x out, exec_storeBCD_of_outOfRange (s := s.withUnread b stk) x out]; rfl
  case storeRegisters x =>
    by_cases range : s.i.toNat + x.val ≤ 0xFFF
    · rw [exec_storeRegisters_of_inRange range, exec_storeRegisters_of_inRange (s := s.withUnread b stk) range]; rfl
    · have out := Nat.not_le.mp range
      rw [exec_storeRegisters_of_outOfRange out, exec_storeRegisters_of_outOfRange (s := s.withUnread b stk) out]; rfl
  case loadRegisters x =>
    by_cases range : s.i.toNat + x.val ≤ 0xFFF
    · rw [exec_loadRegisters_of_inRange range, exec_loadRegisters_of_inRange (s := s.withUnread b stk) range]; rfl
    · have out := Nat.not_le.mp range
      rw [exec_loadRegisters_of_outOfRange out, exec_loadRegisters_of_outOfRange (s := s.withUnread b stk) out]; rfl
  case skipIfKeyPressed x =>
    cases down : s.keyDown (s.getV x) with
    | none => rw [exec_skipIfKeyPressed_of_none down, exec_skipIfKeyPressed_of_none (s := s.withUnread b stk) down]; rfl
    | some c =>
      rw [exec_skipIfKeyPressed_of_some down, exec_skipIfKeyPressed_of_some (s := s.withUnread b stk) down]
      cases c <;> rfl
  case skipIfKeyNotPressed x =>
    cases down : s.keyDown (s.getV x) with
    | none =>
      rw [exec_skipIfKeyNotPressed_of_none down, exec_skipIfKeyNotPressed_of_none (s := s.withUnread b stk) down]; rfl
    | some c =>
      rw [exec_skipIfKeyNotPressed_of_some down, exec_skipIfKeyNotPressed_of_some (s := s.withUnread b stk) down]
      cases c <;> rfl
  case awaitKey x =>
    cases key : s.lastKey with
    | none => rw [exec_awaitKey_of_none key, exec_awaitKey_of_none (s := s.withUnread b stk) key]; rfl
    | some k => rw [exec_awaitKey_of_some key, exec_awaitKey_of_some (s := s.withUnread b stk) key]; rfl
  all_goals rfl

/-- Such an instruction from a state with another ST and stack: it answers the same state with them, and it moved
neither, nor sp. -/
theorem exec_next_withUnread {i : Instr} {s t : State} (hcall : ∀ nnn, i ≠ .call nnn) (hret : i ≠ .ret)
    (hst : ∀ x, i ≠ .loadSoundTimer x) (h : exec i s = .next t) (b : Byte) (stk : Vector Word 16) :
    exec i (s.withUnread b stk) = .next (t.withUnread b stk) ∧ t.stack = s.stack ∧ t.sp = s.sp ∧ t.st = s.st :=
  ⟨by rw [exec_withUnread hcall hret hst, h]; rfl, exec_samePart h (stack_not_mem_writes hcall) (by decide),
    exec_samePart h (sp_not_mem_writes hcall hret) (by decide), exec_samePart h (st_not_mem_writes hst) (by decide)⟩

/-- A relation of states that differ in nothing a step observes: the parts of a step keep it. -/
structure Unobserved (R : State → State → Prop) : Prop where
  pc_eq : ∀ {s s'}, R s s' → s'.pc = s.pc
  mem_eq : ∀ {s s'}, R s s' → s'.mem = s.mem
  setRnd : ∀ {s s'}, R s s' → ∀ rnd, R (s.setRnd rnd) (s'.setRnd rnd)
  advancePc : ∀ {s s'}, R s s' → R s.advancePc s'.advancePc
  setResult : ∀ {s s'}, R s s' → ∀ r, R (s.setResult r) (s'.setResult r)
  withError : ∀ {s s'}, R s s' → ∀ k, R (s.withError k) (s'.withError k)
  endStep : ∀ {s s'}, R s s' → R s.endStep s'.endStep
  exec : ∀ {i s s' t}, R s s' → Machine.exec i s = .next t → ∃ t', Machine.exec i s' = .next t' ∧ R t t'

/-- Steps from related states end in related states. -/
theorem Unobserved.stepWith {R : State → State → Prop} (hR : Unobserved R) {rnd : Byte} {s s' t : State} (h : R s s')
    (hstep : stepWith rnd s = .next t) : ∃ t', Machine.stepWith rnd s' = .next t' ∧ R t t' := by
  have pc_eq := hR.pc_eq h
  have word_eq : s'.fetchWord = s.fetchWord := by
    simp only [State.fetchWord, State.readMem, hR.pc_eq h, hR.mem_eq h]
  have fetched := hR.advancePc (hR.setRnd h rnd)
  rcases stepWith_cases hstep with ⟨out, rfl⟩ | ⟨hpc, ⟨e, fails⟩, rfl⟩ | ⟨hpc, i, u, decoded, hexec, rfl⟩
  · exact ⟨_, stepWith_of_not_canFetch rnd (pc_eq ▸ out), hR.withError (hR.setRnd h rnd) _⟩
  · have unknown := execWord_of_unknown (word_eq ▸ fails) (s'.setRnd rnd).advancePc
    refine ⟨_, by rw [stepWith_of_canFetch rnd (pc_eq ▸ hpc), unknown]; rfl, ?_⟩
    rw [word_eq]
    exact hR.endStep (hR.setResult fetched _)
  · obtain ⟨u', hexec', related⟩ := hR.exec fetched hexec
    exact ⟨_, stepWith_of_exec (pc_eq ▸ hpc) (word_eq ▸ decoded) hexec', hR.endStep related⟩

/-! The sound timer. -/

/-- States that are the same but for ST. -/
def SameButSoundTimer (s s' : State) : Prop := ∃ b, s' = s.setSt b

theorem exec_setSt {i : Instr} {s t : State} (b : Byte) (h : exec i s = .next t) :
    ∃ t', exec i (s.setSt b) = .next t' ∧ SameButSoundTimer t t' := by
  cases i
  case call nnn =>
    rcases s.sp_full_or_free with full | ⟨k, top⟩
    · rw [exec_call_of_sp_full nnn full] at h; cases h
      exact ⟨_, exec_call_of_sp_full (s := s.setSt b) nnn full, b, rfl⟩
    · rw [exec_call_of_sp_lt nnn top] at h; cases h
      exact ⟨_, exec_call_of_sp_lt (s := s.setSt b) nnn top, b, rfl⟩
  case ret =>
    rcases s.sp_zero_or_top with empty | ⟨k, top⟩
    · rw [exec_ret_of_sp_zero empty] at h; cases h
      exact ⟨_, exec_ret_of_sp_zero (s := s.setSt b) empty, b, rfl⟩
    · rw [exec_ret_of_sp_succ top] at h; cases h
      exact ⟨_, exec_ret_of_sp_succ (s := s.setSt b) top, b, rfl⟩
  case loadSoundTimer x => cases h; exact ⟨_, rfl, s.getV x, rfl⟩
  all_goals
    obtain ⟨same, stack_eq, -, -⟩ := exec_next_withUnread (by simp) (by simp) (by simp) h b s.stack
    exact ⟨_, same, b, by rw [← stack_eq]; rfl⟩

theorem unobserved_soundTimer : Unobserved SameButSoundTimer where
  pc_eq := by rintro s _ ⟨b, rfl⟩; rfl
  mem_eq := by rintro s _ ⟨b, rfl⟩; rfl
  setRnd := by rintro s _ ⟨b, rfl⟩ rnd; exact ⟨b, rfl⟩
  advancePc := by rintro s _ ⟨b, rfl⟩; exact ⟨b, rfl⟩
  setResult := by rintro s _ ⟨b, rfl⟩ r; exact ⟨b, rfl⟩
  withError := by rintro s _ ⟨b, rfl⟩ k; exact ⟨b, rfl⟩
  endStep := by
    rintro s _ ⟨b, rfl⟩
    by_cases ticks : s.result.isOk = true ∧ s.config.timerTickMode = .perStep
    · rw [s.endStep_eq, if_pos ticks]
      exact ⟨countDown b, (State.endStep_eq _).trans (if_pos ticks)⟩
    · rw [s.endStep_eq, if_neg ticks]
      exact ⟨b, (State.endStep_eq _).trans (if_neg ticks)⟩
  exec := by rintro i s _ t ⟨b, rfl⟩ h; exact exec_setSt b h

/-- Settles O27. -/
theorem noStepObservesTheSoundTimer : Obligations.NoStepObservesTheSoundTimer := by
  unfold Obligations.NoStepObservesTheSoundTimer
  intro rnd s t b h
  obtain ⟨_, step', c, rfl⟩ := unobserved_soundTimer.stepWith ⟨b, rfl⟩ h
  exact ⟨c, step'⟩

/-! The stale entries of the return stack. -/

/-- The state with another return stack. -/
def State.setStack (s : State) (stk : Vector Word 16) : State := { s with stack := stk }

/-- States that are the same but for the stack entries at index sp and above. -/
def SameButStaleEntries (s s' : State) : Prop :=
  ∃ stk : Vector Word 16, s' = s.setStack stk ∧ ∀ k : Fin 16, k.val < s.sp.val → stk.get k = s.stack.get k

theorem exec_setStack {i : Instr} {s t : State} {stk : Vector Word 16}
    (live : ∀ k : Fin 16, k.val < s.sp.val → stk.get k = s.stack.get k) (h : exec i s = .next t) :
    ∃ t', exec i (s.setStack stk) = .next t' ∧ SameButStaleEntries t t' := by
  cases i
  case call nnn =>
    rcases s.sp_full_or_free with full | ⟨j, top⟩
    · rw [exec_call_of_sp_full nnn full] at h; cases h
      exact ⟨_, exec_call_of_sp_full (s := s.setStack stk) nnn full, stk, rfl, live⟩
    · rw [exec_call_of_sp_lt nnn top] at h; cases h
      refine ⟨_, exec_call_of_sp_lt (s := s.setStack stk) nnn top, stk.set j.val s.pc j.isLt, rfl, fun k below => ?_⟩
      have le_top : k.val < j.val + 1 := below
      show (stk.set j.val s.pc j.isLt).get k = (s.stack.set j.val s.pc j.isLt).get k
      rw [get_set_entry, get_set_entry]
      by_cases pushed : k = j
      · rw [if_pos pushed, if_pos pushed]
      · have below_top : k.val < s.sp.val := by have ne := Fin.val_ne_of_ne pushed; omega
        rw [if_neg pushed, if_neg pushed, live k below_top]
  case ret =>
    rcases s.sp_zero_or_top with empty | ⟨j, top⟩
    · rw [exec_ret_of_sp_zero empty] at h; cases h
      exact ⟨_, exec_ret_of_sp_zero (s := s.setStack stk) empty, stk, rfl, live⟩
    · rw [exec_ret_of_sp_succ top, ← live j (by omega)] at h; cases h
      refine ⟨_, exec_ret_of_sp_succ (s := s.setStack stk) top, stk, rfl, fun k below => live k ?_⟩
      have below_top : k.val < j.val := below
      omega
  case loadSoundTimer x => cases h; exact ⟨_, rfl, stk, rfl, live⟩
  all_goals
    obtain ⟨same, stack_eq, sp_eq, st_eq⟩ := exec_next_withUnread (by simp) (by simp) (by simp) h s.st stk
    exact ⟨_, same, stk, by rw [← st_eq]; rfl, by rw [sp_eq, stack_eq]; exact live⟩

theorem unobserved_staleEntries : Unobserved SameButStaleEntries where
  pc_eq := by rintro s _ ⟨stk, rfl, live⟩; rfl
  mem_eq := by rintro s _ ⟨stk, rfl, live⟩; rfl
  setRnd := by rintro s _ ⟨stk, rfl, live⟩ rnd; exact ⟨stk, rfl, live⟩
  advancePc := by rintro s _ ⟨stk, rfl, live⟩; exact ⟨stk, rfl, live⟩
  setResult := by rintro s _ ⟨stk, rfl, live⟩ r; exact ⟨stk, rfl, live⟩
  withError := by rintro s _ ⟨stk, rfl, live⟩ k; exact ⟨stk, rfl, live⟩
  endStep := by
    rintro s _ ⟨stk, rfl, live⟩
    by_cases ticks : s.result.isOk = true ∧ s.config.timerTickMode = .perStep
    · rw [s.endStep_eq, if_pos ticks]
      exact ⟨stk, (State.endStep_eq _).trans (if_pos ticks), live⟩
    · rw [s.endStep_eq, if_neg ticks]
      exact ⟨stk, (State.endStep_eq _).trans (if_neg ticks), live⟩
  exec := by rintro i s _ t ⟨stk, rfl, live⟩ h; exact exec_setStack live h

/-- Settles O28. -/
theorem noStepObservesStaleStackEntries : Obligations.NoStepObservesStaleStackEntries := by
  unfold Obligations.NoStepObservesStaleStackEntries
  intro rnd s t stk live h
  obtain ⟨_, step', stk', rfl, live'⟩ := unobserved_staleEntries.stepWith ⟨stk, rfl, live⟩ h
  exact ⟨stk', step', live'⟩

end Sys2Proof.Machine
end

section
/-! The instructions that raise, and the control flow (spec/60_exceptions.md R252 to R255; spec/41_control_flow.md). -/

namespace Sys2Proof.Machine

/-- An instruction raises the error that `errorOf` names, with nothing else written. -/
theorem raises_of_errorOf {i : Instr} {s : State} {k : ErrorKind} (error : errorOf s i = some k) : Raises i s k := by
  rcases exec_outcome i s with ⟨none, -⟩ | ⟨k', error', hexec⟩
  · rw [none] at error; cases error
  · obtain rfl : k' = k := Option.some.inj (error'.symm.trans error)
    exact ⟨_, hexec, rfl, rfl, sameBut_withError s k'⟩

/-- Settles O44. -/
theorem outOfRangeAccessesRaiseBeforeAnyEffect : Obligations.OutOfRangeAccessesRaiseBeforeAnyEffect := by
  unfold Obligations.OutOfRangeAccessesRaiseBeforeAnyEffect
  intro x y n s
  exact ⟨fun rows out => raises_of_errorOf (if_pos ⟨rows, out⟩), fun out => raises_of_errorOf (if_pos out),
    fun out => raises_of_errorOf (if_pos out), fun out => raises_of_errorOf (if_pos out)⟩

/-- Settles O29. -/
theorem returnPopsTheReturnAddress : Obligations.ReturnPopsTheReturnAddress := by
  unfold Obligations.ReturnPopsTheReturnAddress
  intro s
  refine ⟨fun k top => ?pops, fun empty => raises_of_errorOf (if_pos empty)⟩
  case pops =>
    refine completes_of_exec (exec_ret_of_sp_succ top) (fun p hp => ?_) ⟨rfl, rfl⟩
    cases p <;> simp_all [SamePart, State.readMem]

/-- Settles O30. -/
theorem callPushesTheReturnAddress : Obligations.CallPushesTheReturnAddress := by
  unfold Obligations.CallPushesTheReturnAddress
  intro nnn s
  refine ⟨fun k top => ?pushes, fun full => raises_of_errorOf (if_pos full)⟩
  case pushes =>
    refine completes_of_exec (exec_call_of_sp_lt nnn top) (fun p hp => ?frame)
      ⟨toNat_zext16_addr nnn, rfl, ?pushed, fun j hj => ?others⟩
    case frame => cases p <;> simp_all [SamePart, State.readMem]
    case pushed => exact (get_set_entry s.stack k k s.pc).trans (if_pos rfl)
    case others => exact (get_set_entry s.stack k j s.pc).trans (if_neg hj)

/-- Settles O31. -/
theorem jumpsSetTheProgramCounter : Obligations.JumpsSetTheProgramCounter := by
  unfold Obligations.JumpsSetTheProgramCounter
  intro nnn s
  exact ⟨completes_of_exec (d := none) rfl (sameBut_setPc s _) (toNat_zext16_addr nnn),
    completes_of_exec (d := none) rfl (sameBut_setPc s _) (toNat_jumpTarget nnn (s.getV 0))⟩

theorem exec_skipIfRegistersEqual (x y : Reg) (s : State) :
    exec (.skipIfRegistersEqual x y) s = complete (s.skipIf (s.getV x == s.getV y)) := rfl

theorem exec_skipIfRegistersNotEqual (x y : Reg) (s : State) :
    exec (.skipIfRegistersNotEqual x y) s = complete (s.skipIf (s.getV x != s.getV y)) := rfl

/-- Settles O34: each is a skip whose condition is the comparison of V[X] with V[Y]. -/
theorem skipsOnTwoRegisters : Obligations.SkipsOnTwoRegisters := by
  unfold Obligations.SkipsOnTwoRegisters
  intro x y
  refine ⟨fun n => ⟨decodeWord_skipIfRegistersEqual x y n, decodeWord_skipIfRegistersNotEqual x y n⟩,
    fun s => ⟨?equal, ?notEqual⟩⟩
  case equal =>
    exact completes_of_skipIf (exec_skipIfRegistersEqual x y s) beq_iff_eq.mpr beq_eq_false_iff_ne.mpr
  case notEqual =>
    exact completes_of_skipIf (exec_skipIfRegistersNotEqual x y s) bne_iff_ne.mpr bne_eq_false_iff_eq.mpr

end Sys2Proof.Machine
end

section
/-! The ALU (spec/42_alu.md R153 to R165). -/

namespace Sys2Proof.Machine

/-- Settles O36: each writes V[X] alone. -/
theorem copyAndBitwiseLogic : Obligations.CopyAndBitwiseLogic := by
  unfold Obligations.CopyAndBitwiseLogic
  intro x y
  refine ⟨decodeWord_copy x y, decodeWord_or x y, decodeWord_and x y, decodeWord_xor x y,
    fun s => ⟨?copy, ?or, ?and, ?xor⟩⟩
  case copy => exact completes_of_setV (b := s.getV y) rfl fun _ value others => ⟨value, others⟩
  case or =>
    exact completes_of_setV (b := s.getV x ||| s.getV y) rfl fun _ value others =>
      ⟨others, fun k => value ▸ BitVec.getLsbD_or⟩
  case and =>
    exact completes_of_setV (b := s.getV x &&& s.getV y) rfl fun _ value others =>
      ⟨others, fun k => value ▸ BitVec.getLsbD_and⟩
  case xor =>
    exact completes_of_setV (b := s.getV x ^^^ s.getV y) rfl fun _ value others =>
      ⟨others, fun k => value ▸ BitVec.getLsbD_xor⟩

/-- An instruction that writes its result and then the flag: the flag is in VF whatever X is, and the result in V[X]
where X is not 0xF (R159). -/
theorem completes_of_writeResultThenFlag {i : Instr} {s : State} {x : Reg} {result flag : Byte} {post : State → Prop}
    (hexec : exec i s = complete (s.writeResultThenFlag x result flag))
    (hpost : ∀ t, t.getV 0xF = flag → (x ≠ 0xF → t.getV x = result) → SameRegsBut (fun r => r = x ∨ r = 0xF) s t →
      post t) : Completes i s none [.v] post := by
  refine completes_of_exec hexec (sameBut_setV_setV s x _ result flag) (hpost _ ?flag ?result ?others)
  case flag => exact State.setV_getV_same _ _ _
  case result => exact fun hx => (State.setV_getV_other _ _ hx).trans (State.setV_getV_same _ _ _)
  case others => exact s.sameRegsBut_setV_setV x _ result flag

theorem carryFlag_toNat (a b : Byte) : (carryFlag a b).toNat = if a.toNat + b.toNat > 0xFF then 1 else 0 := by
  simp [carryFlag, flagByte_toNat]

theorem noBorrowFlag_toNat (a b : Byte) : (noBorrowFlag a b).toNat = if a.toNat ≥ b.toNat then 1 else 0 := by
  simp [noBorrowFlag, flagByte_toNat]

theorem toNat_sub_byte (a b : Byte) : (a - b).toNat = (a.toNat + 256 - b.toNat) % 256 := by
  have lt := b.isLt
  rw [BitVec.toNat_sub]
  congr 1; omega

/-- Settles O37. -/
theorem addSetsTheCarry : Obligations.AddSetsTheCarry := by
  unfold Obligations.AddSetsTheCarry
  intro x y
  refine ⟨decodeWord_add x y, fun s => completes_of_writeResultThenFlag rfl fun t flag result others => ?_⟩
  exact ⟨by rw [flag, carryFlag_toNat], fun hx => by rw [result hx, BitVec.toNat_add], others⟩

/-- Settles O38. -/
theorem subtractionsSetTheInvertedBorrow : Obligations.SubtractionsSetTheInvertedBorrow := by
  unfold Obligations.SubtractionsSetTheInvertedBorrow
  intro x y
  refine ⟨decodeWord_sub x y, decodeWord_subReverse x y, fun s =>
    ⟨completes_of_writeResultThenFlag rfl fun t flag result others => ?_,
     completes_of_writeResultThenFlag rfl fun t flag result others => ?_⟩⟩
  all_goals exact ⟨by rw [flag, noBorrowFlag_toNat], fun hx => by rw [result hx, toNat_sub_byte], others⟩

/-- A shift: V[X] is the shifted operand, VF the bit shifted out of V[Y] where X is not 0xF (R159). -/
theorem completes_of_shiftWith {i : Instr} {s : State} {x y : Reg} {flag result : Byte → Byte} {post : State → Prop}
    (hexec : exec i s = complete (s.shiftWith flag result x y))
    (hpost : ∀ t, t.getV x = result (s.shiftOperand (s.setV regVF (flag (s.getV y))) y) →
      (x ≠ 0xF → t.getV 0xF = flag (s.getV y)) → SameRegsBut (fun r => r = x ∨ r = 0xF) s t → post t) :
    Completes i s none [.v] post := by
  refine completes_of_exec hexec (sameBut_setV_setV s _ x _ _) (hpost _ ?result ?flag ?others)
  case result => exact State.setV_getV_same _ _ _
  case flag => exact fun hx => (State.setV_getV_other _ _ (Ne.symm hx)).trans (State.setV_getV_same _ _ _)
  case others => exact fun r hr => s.sameRegsBut_setV_setV _ x _ _ r (mt Or.symm hr)

/-- The shift operand is V[Y] before the flag write, but the flag itself where Y is 0xF and the reading is
sequential (R159). -/
theorem shiftOperand_after_flag (s : State) (y : Reg) (flag : Byte) :
    s.shiftOperand (s.setV regVF flag) y =
      if y = 0xF ∧ s.config.shiftOperandReading = .sequential then flag else s.getV y := by
  cases reading : s.config.shiftOperandReading
  · simp [State.shiftOperand, reading, State.setV_getV]
  · simp [State.shiftOperand, reading]

theorem shiftRightFlag_toNat (b : Byte) : (shiftRightFlag b).toNat = b.toNat % 2 := by
  rw [shiftRightFlag, BitVec.toNat_and]; exact Nat.and_one_is_mod _

theorem shiftLeftFlag_toNat (b : Byte) : (shiftLeftFlag b).toNat = b.toNat / 128 := by
  have lt := b.isLt
  have shifted : (b >>> 7).toNat = b.toNat / 128 := by rw [BitVec.toNat_ushiftRight, Nat.shiftRight_eq_div_pow]
  rw [shiftLeftFlag, BitVec.toNat_and, shifted]
  exact (Nat.and_one_is_mod _).trans (by omega)

theorem toNat_shiftRight_one (b : Byte) : (b >>> 1).toNat = b.toNat / 2 := by
  rw [BitVec.toNat_ushiftRight, Nat.shiftRight_eq_div_pow]

theorem toNat_shiftLeft_one (b : Byte) : (b <<< 1).toNat = b.toNat * 2 % 256 := by
  rw [BitVec.toNat_shiftLeft, Nat.shiftLeft_eq]

/-- Settles O39. -/
theorem shiftsReadTheSecondRegister : Obligations.ShiftsReadTheSecondRegister := by
  unfold Obligations.ShiftsReadTheSecondRegister
  intro x y s
  refine ⟨completes_of_shiftWith rfl fun t result flag others => ⟨?_, fun hx => ?_, others⟩,
    completes_of_shiftWith rfl fun t result flag others => ⟨?_, fun hx => ?_, others⟩⟩
  · rw [result, toNat_shiftRight_one, shiftOperand_after_flag, apply_ite BitVec.toNat, shiftRightFlag_toNat]
  · rw [flag hx, shiftRightFlag_toNat]
  · rw [result, toNat_shiftLeft_one, shiftOperand_after_flag, apply_ite BitVec.toNat, shiftLeftFlag_toNat]
  · rw [flag hx, shiftLeftFlag_toNat]

/-- A step that runs an instruction which completes with `u`: what changed is what the instruction changed, and what the
fetch and the end of the step change; what is claimed of its end follows from `u` and the timers at its end. -/
theorem steps_of_complete {rnd : Byte} {s u : State} {i : Instr} {changed : List Part} {post : State → Prop}
    (hpc : s.pc.toNat ≤ 0xFFE) (decoded : decodeWord s.fetchWord = .ok i)
    (hexec : exec i (s.setRnd rnd).advancePc = complete u) (frame : SameBut changed s u)
    (step_parts : ∀ p ∈ [Part.dt, .st, .result], p ∈ changed)
    (hpost : post (u.setResult (.ok none)).endStep) : Steps rnd s changed post := by
  have result_frame := (sameBut_setResult u (.ok none)).mono fun p hp =>
    step_parts p (List.mem_append_right [Part.dt, .st] hp)
  have end_frame := (sameBut_endStep (u.setResult (.ok none))).mono fun p hp =>
    step_parts p (List.mem_append_left [Part.result] hp)
  exact ⟨_, stepWith_of_exec hpc decoded hexec, (frame.trans result_frame).trans end_frame, hpost⟩

@[simp] theorem State.endStep_getV (s : State) (r : Reg) : s.endStep.getV r = s.getV r := by
  have v_eq : s.endStep.v = s.v := sameBut_endStep s .v (by decide)
  simp only [State.getV, v_eq]

/-- Settles O40. -/
theorem loadRandomMaskedUsesTheStepsRandomByte : Obligations.LoadRandomMaskedUsesTheStepsRandomByte := by
  unfold Obligations.LoadRandomMaskedUsesTheStepsRandomByte
  intro x nn s
  refine ⟨completes_of_setV (b := s.rnd &&& nn) rfl fun _ value others => ⟨value, others⟩, fun rnd hpc word => ?step⟩
  case step =>
    have decoded : decodeWord s.fetchWord = .ok (.loadRandomMasked x nn) := word ▸ decodeWord_loadRandomMasked x nn
    have frame := ((sameBut_fetch rnd s).mono (qs := [.v, .pc, .dt, .st, .rnd, .result]) (by decide)).trans
      ((sameBut_setV _ x (rnd &&& nn)).mono (by decide))
    refine steps_of_complete hpc decoded rfl frame (by decide) ⟨?value, fun r hr => ?others, ?pc, ?result⟩
    case value => simp
    case others => simp [hr]
    case pc => simp
    case result => simp

end Sys2Proof.Machine
end

section
/-! The index register and the memory transfers (spec/44_index_memory.md R202 to R210). -/

namespace Sys2Proof.Machine

theorem toNat_lowNibble (b : Byte) : (b &&& 0xF).toNat = b.toNat % 16 := by
  rw [BitVec.toNat_and]; exact Nat.and_two_pow_sub_one_eq_mod _ 4

theorem toNat_glyphAddress (b : Byte) : (glyphAddress b).toNat = 5 * (b.toNat % 16) := by
  rw [glyphAddress, BitVec.toNat_ofNat, toNat_lowNibble]; omega

/-- Settles O47. -/
theorem indexArithmeticWritesOnlyIndex : Obligations.IndexArithmeticWritesOnlyIndex := by
  unfold Obligations.IndexArithmeticWritesOnlyIndex
  intro x s
  have sum : (s.i + zext16 (s.getV x)).toNat = (s.i.toNat + (s.getV x).toNat) % 65536 := by
    rw [BitVec.toNat_add, toNat_zext16_byte]
  exact ⟨completes_of_exec (d := none) rfl (sameBut_setI s _) sum,
    completes_of_exec (d := none) rfl (sameBut_setI s _) (toNat_glyphAddress _)⟩

theorem sameBut_storeAtIndex (s : State) (bs : List Byte) : SameBut [.mem] s (s.storeAtIndex bs) := sameBut_setMem s _

/-- A stored byte, read at its address. -/
theorem storeAtIndex_readMem_at {s : State} {bs : List Byte} {k : Nat} (h : k < bs.length) :
    (s.storeAtIndex bs).readMem (s.i.toNat + k) = bs.getD k 0 := by
  rw [State.storeAtIndex_readMem, if_pos (by omega), Nat.add_sub_cancel_left]

/-- A byte outside those stored is kept. -/
theorem storeAtIndex_readMem_outside {s : State} {bs : List Byte} {a : Nat}
    (h : a < s.i.toNat ∨ s.i.toNat + bs.length ≤ a) : (s.storeAtIndex bs).readMem a = s.readMem a := by
  rw [State.storeAtIndex_readMem, if_neg (by omega)]

/-- A decimal digit of a byte is a byte. -/
theorem toNat_ofNat_byte {n : Nat} (h : n < 256) : (BitVec.ofNat 8 n).toNat = n := by
  rw [BitVec.toNat_ofNat, Nat.mod_eq_of_lt h]

/-- Settles O48. -/
theorem storeBCDWritesTheDecimalDigits : Obligations.StoreBCDWritesTheDecimalDigits := by
  unfold Obligations.StoreBCDWritesTheDecimalDigits
  intro x s range
  have lt := (s.getV x).isLt
  refine completes_of_exec (exec_storeBCD_of_inRange x range) (sameBut_storeAtIndex s _)
    ⟨?hundreds, ?tens, ?ones, fun a outside => ?others⟩
  all_goals rw [State.setResult_readMem]
  case hundreds =>
    exact (congrArg BitVec.toNat (storeAtIndex_readMem_at (k := 0) (by simp))).trans (toNat_ofNat_byte (by omega))
  case tens =>
    exact (congrArg BitVec.toNat (storeAtIndex_readMem_at (k := 1) (by simp))).trans (toNat_ofNat_byte (by omega))
  case ones =>
    exact (congrArg BitVec.toNat (storeAtIndex_readMem_at (k := 2) (by simp))).trans (toNat_ofNat_byte (by omega))
  case others => exact storeAtIndex_readMem_outside (by rw [bcdDigits_length]; omega)

/-- What StoreRegisters leaves at I + k: V[k] (R208). -/
theorem stored_register (s : State) {x k : Reg} (h : k.val ≤ x.val) :
    (s.storeAtIndex (s.regsUpTo x)).readMem (s.i.toNat + k.val) = s.getV k := by
  rw [storeAtIndex_readMem_at (by rw [State.regsUpTo_length]; omega), s.regsUpTo_getD x k h]

/-- Settles O49. -/
theorem storeRegistersCopiesToMemory : Obligations.StoreRegistersCopiesToMemory := by
  unfold Obligations.StoreRegistersCopiesToMemory
  intro x s range
  exact completes_of_exec (exec_storeRegisters_of_inRange range) (sameBut_storeAtIndex s _)
    ⟨fun k hk => stored_register s hk,
      fun a outside => storeAtIndex_readMem_outside (by rw [State.regsUpTo_length]; omega)⟩

/-- Settles O50. -/
theorem loadRegistersCopiesFromMemory : Obligations.LoadRegistersCopiesFromMemory := by
  unfold Obligations.LoadRegistersCopiesFromMemory
  intro x s range
  exact completes_of_exec (exec_loadRegisters_of_inRange range) (sameBut_setRegs s _)
    ⟨fun k hk => (getV_after_loadRegisters s x k).trans (if_pos hk),
      fun k hk => (getV_after_loadRegisters s x k).trans (if_neg hk)⟩

/-- A StoreRegisters that answered OK was in range, and stored the registers. -/
theorem storeRegisters_of_ok {x : Reg} {s t : State} (h : exec (.storeRegisters x) s = .next t)
    (ok : t.result = .ok none) :
    s.i.toNat + x.val ≤ 0xFFF ∧ t = (s.storeAtIndex (s.regsUpTo x)).setResult (.ok none) := by
  by_cases range : s.i.toNat + x.val ≤ 0xFFF
  · rw [exec_storeRegisters_of_inRange range] at h; cases h; exact ⟨range, rfl⟩
  · rw [exec_storeRegisters_of_outOfRange (Nat.not_le.mp range)] at h; cases h; cases ok

/-- Settles O51: each byte loaded is the one stored, which is the register. -/
theorem storeThenLoadGivesTheRegistersBack : Obligations.StoreThenLoadGivesTheRegistersBack := by
  unfold Obligations.StoreThenLoadGivesTheRegistersBack
  intro x s t s' u hstore ok same_index same_bytes hload
  obtain ⟨range, rfl⟩ := storeRegisters_of_ok hstore ok
  rw [exec_loadRegisters_of_inRange (same_index ▸ range)] at hload
  cases hload
  refine ⟨rfl, fun k hk => ?_⟩
  calc (State.setRegs s' _).getV k
      = s'.readMem (s'.i.toNat + k.val) := (getV_after_loadRegisters s' x k).trans (if_pos hk)
    _ = (s.storeAtIndex (s.regsUpTo x)).readMem (s.i.toNat + k.val) := by rw [same_index]; exact same_bytes k hk
    _ = s.getV k := stored_register s hk

/-- Settles O15. -/
theorem fetchSeesStoredRegisters : Obligations.FetchSeesStoredRegisters := by
  unfold Obligations.FetchSeesStoredRegisters
  intro x s t k p hstore ok hk address
  obtain ⟨-, rfl⟩ := storeRegisters_of_ok hstore ok
  have high : (s.storeAtIndex (s.regsUpTo x)).readMem p.toNat = s.getV ⟨k, by omega⟩ := by
    rw [address]; exact stored_register s (k := ⟨k, by omega⟩) hk.le
  have low : (s.storeAtIndex (s.regsUpTo x)).readMem (p.toNat + 1) = s.getV ⟨k + 1, by omega⟩ := by
    rw [address]; exact stored_register s (k := ⟨k + 1, by omega⟩) hk
  exact congrArg₂ wordOfBytes high low

end Sys2Proof.Machine
end

section
/-! The keypad and the timers (spec/45_timers_keys.md R220 to R232). -/

namespace Sys2Proof.Machine

theorem keyDown_of_maskLowNibble {s : State} {idx : Byte} (high : 0xF < idx.toNat)
    (policy : s.config.keyIndexPolicy = .maskLowNibble) :
    s.keyDown idx = some (s.keys.getLsbD (idx.toNat % 16)) := by
  rw [← toNat_lowNibble]
  simp only [State.keyDown, if_neg (Nat.not_le.mpr high), policy]; rfl

theorem keyDown_of_notPressed {s : State} {idx : Byte} (high : 0xF < idx.toNat)
    (policy : s.config.keyIndexPolicy = .notPressed) : s.keyDown idx = some false := by
  simp only [State.keyDown, if_neg (Nat.not_le.mpr high), policy]

theorem completes_of_exec_skipIf {i : Instr} {s : State} {c : Bool} (hexec : exec i s = complete (s.skipIf c)) :
    Completes i s none [.pc] (fun t => t.pc = if c = true then s.pc + 2 else s.pc) := by
  rw [State.skipIf_eq] at hexec
  exact completes_of_exec hexec (sameBut_setPc s _) rfl

/-- Settles O52, case by case of the key test. -/
theorem keySkipsTestTheKeyMask : Obligations.KeySkipsTestTheKeyMask := by
  unfold Obligations.KeySkipsTestTheKeyMask
  intro x s idx skips
  have tested {c : Bool} (down : s.keyDown (s.getV x) = some c) :
      skips (.skipIfKeyPressed x) c ∧ skips (.skipIfKeyNotPressed x) (!c) :=
    ⟨completes_of_exec_skipIf (exec_skipIfKeyPressed_of_some down),
      completes_of_exec_skipIf (exec_skipIfKeyNotPressed_of_some down)⟩
  exact ⟨fun low => tested (if_pos low), fun high policy => tested (keyDown_of_maskLowNibble high policy),
    fun high policy => tested (keyDown_of_notPressed high policy),
    fun high policy => ⟨raises_of_errorOf (if_pos ⟨policy, high⟩), raises_of_errorOf (if_pos ⟨policy, high⟩)⟩⟩

/-- Settles O53. -/
theorem awaitKeyStoresTheKeyOrRollsBack : Obligations.AwaitKeyStoresTheKeyOrRollsBack := by
  unfold Obligations.AwaitKeyStoresTheKeyOrRollsBack
  intro x s
  refine ⟨fun k key => completes_of_setV (exec_awaitKey_of_some key) fun _ value others => ⟨?value, others⟩,
    fun none => completes_of_exec (exec_awaitKey_of_none none) (sameBut_setPc s _) rfl⟩
  case value => rw [value]; exact toNat_ofNat_byte (by omega)

/-- The timers at the end of a completed step, from those of the state `u` its instruction left, which took the
parameters over from the step's state. -/
theorem endStep_timers_of_complete {s u : State} (config : u.config = s.config) :
    (u.setResult (.ok none)).endStep.dt = atStepEnd s u.dt ∧
      (u.setResult (.ok none)).endStep.st = atStepEnd s u.st := by
  rw [← atStepEnd_of_config_eq config, ← atStepEnd_of_config_eq config]
  exact State.endStep_timers_of_isOk rfl

/-- Settles O54: the roll-back takes back what the fetch added to pc. -/
theorem blockedAwaitKeyStaysAtItsAddress : Obligations.BlockedAwaitKeyStaysAtItsAddress := by
  unfold Obligations.BlockedAwaitKeyStaysAtItsAddress
  intro rnd x s hpc word no_key
  have decoded : decodeWord s.fetchWord = .ok (.awaitKey x) := word ▸ decodeWord_awaitKey x
  have hexec := exec_awaitKey_of_none (s := (s.setRnd rnd).advancePc) (x := x) no_key
  have rolled_back : s.pc + 2 - 2 = s.pc := BitVec.add_sub_cancel _ _
  have frame : SameBut [.dt, .st, .rnd, .result] s ((s.setRnd rnd).advancePc.setPc (s.pc + 2 - 2)) := by
    intro p hp
    cases p <;> simp_all [SamePart]
  exact steps_of_complete hpc decoded hexec frame (by decide) ⟨State.endStep_result _, endStep_timers_of_complete rfl⟩

/-- Settles O55. -/
theorem timerTransfers : Obligations.TimerTransfers := by
  unfold Obligations.TimerTransfers
  intro x
  refine ⟨decodeWord_loadFromDelayTimer x, decodeWord_loadDelayTimer x, decodeWord_loadSoundTimer x,
    fun s => ⟨?_, ?_, ?_⟩, fun rnd s hpc => ⟨fun word => ?readStep, fun word => ?delayStep, fun word => ?soundStep⟩⟩
  · exact completes_of_setV (b := s.dt) rfl fun _ value others => ⟨value, others⟩
  · exact completes_of_exec (d := none) rfl (sameBut_setDt s _) rfl
  · exact completes_of_exec (d := none) rfl (sameBut_setSt s _) rfl
  case readStep =>
    have decoded : decodeWord s.fetchWord = .ok (.loadFromDelayTimer x) := word ▸ decodeWord_loadFromDelayTimer x
    have frame := ((sameBut_fetch rnd s).mono (qs := [.v, .pc, .dt, .st, .rnd, .result]) (by decide)).trans
      ((sameBut_setV _ x s.dt).mono (by decide))
    exact steps_of_complete hpc decoded rfl frame (by decide) ⟨by simp, endStep_timers_of_complete rfl⟩
  case delayStep =>
    have decoded : decodeWord s.fetchWord = .ok (.loadDelayTimer x) := word ▸ decodeWord_loadDelayTimer x
    have frame := ((sameBut_fetch rnd s).mono (qs := [.pc, .dt, .st, .rnd, .result]) (by decide)).trans
      ((sameBut_setDt _ (s.getV x)).mono (by decide))
    exact steps_of_complete hpc decoded rfl frame (by decide) (endStep_timers_of_complete rfl)
  case soundStep =>
    have decoded : decodeWord s.fetchWord = .ok (.loadSoundTimer x) := word ▸ decodeWord_loadSoundTimer x
    have frame := ((sameBut_fetch rnd s).mono (qs := [.pc, .dt, .st, .rnd, .result]) (by decide)).trans
      ((sameBut_setSt _ (s.getV x)).mono (by decide))
    exact steps_of_complete hpc decoded rfl frame (by decide) (endStep_timers_of_complete rfl)

theorem countDown_toNat_of_ne_zero {b : Byte} (h : b ≠ 0) : (countDown b).toNat + 1 = b.toNat := by
  have pos : 0 < b.toNat := Nat.pos_of_ne_zero fun e => h (BitVec.eq_of_toNat_eq e)
  have sub : (b - 1).toNat = b.toNat - 1 := BitVec.toNat_sub_of_le pos
  rw [countDown, if_neg h, sub]; omega

theorem countDown_zero {b : Byte} (h : b = 0) : countDown b = 0 := if_pos h

/-- Settles O56. -/
theorem tickCountsEachTimerDown : Obligations.TickCountsEachTimerDown := by
  unfold Obligations.TickCountsEachTimerDown
  intro s
  refine ⟨⟨countDown_toNat_of_ne_zero, countDown_zero, countDown_toNat_of_ne_zero, countDown_zero, sameBut_tick s⟩,
    fun mode => ?_, fun mode => ?_⟩
  all_goals simp only [handle, hostTick, mode]

/-! The lowest key of a mask (R231). -/

/-- The search from bit `k` on finds nothing iff no bit it looks at is set. -/
theorem lowestFrom_eq_none_iff (m : Word) : ∀ (n k : Nat),
    lowestFrom m k n = none ↔ ∀ j, k ≤ j → j < k + n → m.getLsbD j = false := by
  intro n
  induction n with
  | zero => intro k; exact iff_of_true rfl fun j _ _ => by omega
  | succ n ih =>
    intro k
    by_cases set : m.getLsbD k = true
    · simp only [lowestFrom, if_pos set, reduceCtorEq, false_iff]
      exact fun unset => absurd (unset k le_rfl (by omega)) (by simp [set])
    · rw [lowestFrom, if_neg set, ih]
      refine ⟨fun unset j hj lt => ?_, fun unset j hj lt => unset j (by omega) (by omega)⟩
      by_cases at_k : j = k
      · simpa [at_k] using set
      · exact unset j (by omega) (by omega)

/-- What the search finds is the first set bit it looks at. -/
theorem lowestFrom_eq_some_iff (m : Word) : ∀ (n k : Nat), k + n ≤ 16 → ∀ q : Key,
    lowestFrom m k n = some q ↔
      k ≤ q.val ∧ q.val < k + n ∧ m.getLsbD q.val = true ∧ ∀ j, k ≤ j → j < q.val → m.getLsbD j = false := by
  intro n
  induction n with
  | zero =>
    intro k _ q
    simp only [lowestFrom, reduceCtorEq, false_iff]; omega
  | succ n ih =>
    intro k le q
    by_cases set : m.getLsbD k = true
    · have index : (Fin.ofNat 16 k).val = k := Nat.mod_eq_of_lt (by omega)
      rw [lowestFrom, if_pos set]
      constructor
      · intro found
        obtain rfl : Fin.ofNat 16 k = q := Option.some.inj found
        rw [index]
        exact ⟨le_rfl, by omega, set, fun j hj lt => by omega⟩
      · rintro ⟨hk, -, -, below⟩
        have at_k : q.val = k := by
          by_contra ne
          exact absurd (below k le_rfl (by omega)) (by simp [set])
        exact congrArg some (Fin.ext (index.trans at_k.symm))
    · have unset : m.getLsbD k = false := by simpa using set
      rw [lowestFrom, if_neg set, ih (k + 1) (by omega)]
      constructor
      · rintro ⟨hk, lt, set_q, below⟩
        refine ⟨by omega, by omega, set_q, fun j hj hlt => ?_⟩
        by_cases at_k : j = k
        · exact at_k ▸ unset
        · exact below j (by omega) hlt
      · rintro ⟨hk, lt, set_q, below⟩
        have ne : q.val ≠ k := fun e => absurd (e ▸ set_q) set
        exact ⟨by omega, by omega, set_q, fun j hj hlt => below j (by omega) hlt⟩

/-- A key is new at a refresh: its bit went from 0 to 1. -/
theorem getLsbD_newKeys {m keys : Word} {k : Nat} (h : k < 16) :
    (m &&& ~~~keys).getLsbD k = true ↔ m.getLsbD k = true ∧ keys.getLsbD k = false := by
  simp [h]

/-- Settles O58. -/
theorem keyRefreshFindsTheLowestNewKey : Obligations.KeyRefreshFindsTheLowestNewKey := by
  unfold Obligations.KeyRefreshFindsTheLowestNewKey
  intro m s
  have new (k : Key) := getLsbD_newKeys (m := m) (keys := s.keys) k.isLt
  refine ⟨rfl, rfl, sameBut_keyRefresh s m, ?none, fun k => ?some⟩
  all_goals simp only [← and_assoc, ← new, Bool.not_eq_true, State.keyRefresh_lastKey, lowestKey]
  case none =>
    rw [lowestFrom_eq_none_iff]
    exact ⟨fun unset k => unset k.val (by omega) (by omega), fun unset j _ lt => unset ⟨j, by omega⟩⟩
  case some =>
    rw [lowestFrom_eq_some_iff _ _ _ le_rfl]
    exact ⟨fun ⟨_, _, set, below⟩ => ⟨set, fun j lt => below j.val (by omega) lt⟩,
      fun ⟨set, below⟩ => ⟨by omega, by omega, set, fun j _ lt => below ⟨j, by omega⟩ lt⟩⟩

end Sys2Proof.Machine
end

section
/-! The display (spec/43_display.md R181 to R186): DrawSprite pixel by pixel. -/

namespace Sys2Proof.Machine

/-- On a display row the sprite covers, the sprite bits are those of the row word drawn there. -/
theorem spriteLights_of_covered {s : State} {x y : Reg} {n : Fin 16} {row : Fin 32} (col : Fin 64)
    (covered : (s.getV y).toNat % 32 ≤ row.val ∧ row.val < (s.getV y).toNat % 32 + n.val) :
    spriteLights s x y n row col =
      (spriteRow ((s.getV x).toNat % 64)
        (s.readMem (s.i.toNat + (row.val - (s.getV y).toNat % 32)))).getMsbD col.val := by
  have in_sprite : row.val - (s.getV y).toNat % 32 < n.val := by omega
  rw [spriteRow_getMsbD _ col.isLt]
  simp only [spriteLights, covered.1, in_sprite, true_and]

/-- On every other display row there is no sprite bit. -/
theorem spriteLights_of_not_covered {s : State} {x y : Reg} {n : Fin 16} {row : Fin 32} (col : Fin 64)
    (free : ¬ ((s.getV y).toNat % 32 ≤ row.val ∧ row.val < (s.getV y).toNat % 32 + n.val)) :
    spriteLights s x y n row col = false := by
  have not_in_sprite (c : Prop) [Decidable c] :
      decide ((s.getV y).toNat % 32 ≤ row.val ∧ row.val - (s.getV y).toNat % 32 < n.val ∧ c) = false :=
    decide_eq_false fun ⟨le, lt, _⟩ => free ⟨le, by omega⟩
  simp only [spriteLights, not_in_sprite, Bool.false_and]

/-- Every pixel is XORed with the sprite bit on it (R184). -/
theorem drawn_pixel (s : State) (x y : Reg) (n : Fin 16) (row : Fin 32) (col : Fin 64) :
    (drawn s x y n).pixel row col = (s.pixel row col ^^ spriteLights s x y n row col) := by
  have drawn_row := drawRows_row ((s.getV x).toNat % 64) (s.bytesAtIndex n.val) ((s.getV y).toNat % 32) s.disp false row
  rw [State.bytesAtIndex_length] at drawn_row
  show BitVec.getMsbD (Vector.get (drawRows _ _ _ _ _).1 row) col.val = _
  rw [drawn_row]
  by_cases covered : (s.getV y).toNat % 32 ≤ row.val ∧ row.val < (s.getV y).toNat % 32 + n.val
  · rw [if_pos covered, s.bytesAtIndex_getD (by omega), BitVec.getMsbD_xor, spriteLights_of_covered col covered]; rfl
  · rw [if_neg covered, spriteLights_of_not_covered col covered, Bool.xor_false]; rfl

/-- The collision found is one pixel set and lit (R185). -/
theorem drawRows_collides_iff_pixel (s : State) (x y : Reg) (n : Fin 16) :
    (drawRows ((s.getV x).toNat % 64) ((s.getV y).toNat % 32) (s.bytesAtIndex n.val) s.disp false).2 = true ↔
      ∃ (row : Fin 32) (col : Fin 64), s.pixel row col = true ∧ spriteLights s x y n row col = true := by
  rw [drawRows_collides, State.bytesAtIndex_length]
  simp only [Bool.false_eq_true, false_or, rowCollides_iff]
  constructor
  · rintro ⟨row, covered, c, lt, set, lit⟩
    rw [s.bytesAtIndex_getD (by omega)] at lit
    exact ⟨row, ⟨c, lt⟩, set, (spriteLights_of_covered ⟨c, lt⟩ covered).trans lit⟩
  · rintro ⟨row, col, set, lit⟩
    by_cases covered : (s.getV y).toNat % 32 ≤ row.val ∧ row.val < (s.getV y).toNat % 32 + n.val
    · refine ⟨row, covered, col.val, col.isLt, set, ?_⟩
      rw [s.bytesAtIndex_getD (by omega), ← spriteLights_of_covered col covered, lit]
    · rw [spriteLights_of_not_covered col covered] at lit; cases lit

theorem drawn_flag_of_collision {s : State} {x y : Reg} {n : Fin 16} {row : Fin 32} {col : Fin 64}
    (set : s.pixel row col = true) (lit : spriteLights s x y n row col = true) : (drawn s x y n).getV 0xF = 1 := by
  have collides := (drawRows_collides_iff_pixel s x y n).mpr ⟨row, col, set, lit⟩
  exact (State.setV_getV_same _ _ _).trans (by rw [collides]; rfl)

theorem drawn_flag_of_no_collision {s : State} {x y : Reg} {n : Fin 16}
    (none : ∀ (row : Fin 32) (col : Fin 64), s.pixel row col = true → spriteLights s x y n row col = false) :
    (drawn s x y n).getV 0xF = 0 := by
  have no_collision : (drawRows _ _ (s.bytesAtIndex n.val) s.disp false).2 = false :=
    Bool.eq_false_iff.mpr fun collides => by
      obtain ⟨row, col, set, lit⟩ := (drawRows_collides_iff_pixel s x y n).mp collides
      simp [none row col set] at lit
  exact (State.setV_getV_same _ _ _).trans (by rw [no_collision]; rfl)

/-- Settles O42. -/
theorem drawSpriteXorsEveryPixelAndDetectsCollision :
    Obligations.DrawSpriteXorsEveryPixelAndDetectsCollision := by
  unfold Obligations.DrawSpriteXorsEveryPixelAndDetectsCollision
  intro x y n s range
  have in_range : ¬ (0 < n.val ∧ 0xFFF < s.i.toNat + n.val - 1) := by omega
  have only := writesOnly_drawn s x y n
  refine completes_of_exec (exec_drawSprite_of_inRange x y in_range) only.parts
    ⟨drawn_pixel s x y n, ?collision, ?noCollision, only.regs⟩
  case collision =>
    rintro ⟨row, col, set, unset⟩
    have xored : (s.pixel row col ^^ spriteLights s x y n row col) = false :=
      (drawn_pixel s x y n row col).symm.trans unset
    exact drawn_flag_of_collision set (by simpa [set] using xored)
  case noCollision =>
    intro kept
    refine drawn_flag_of_no_collision fun row col set => ?_
    have xored : (s.pixel row col ^^ spriteLights s x y n row col) = true :=
      (drawn_pixel s x y n row col).symm.trans (kept row col set)
    simpa [set] using xored

/-- A DrawSprite that answered OK drew the sprite. -/
theorem drawSprite_of_ok {x y : Reg} {n : Fin 16} {s t : State} (h : exec (.drawSprite x y n) s = .next t)
    (ok : t.result = .ok none) :
    ¬ (0 < n.val ∧ 0xFFF < s.i.toNat + n.val - 1) ∧ t = (drawn s x y n).setResult (.ok none) := by
  by_cases out : 0 < n.val ∧ 0xFFF < s.i.toNat + n.val - 1
  · rw [exec_drawSprite_of_outOfRange x y out] at h; cases h; cases ok
  · rw [exec_drawSprite_of_inRange x y out] at h; cases h; exact ⟨out, rfl⟩

/-- The first draw moves neither the sprite nor its bytes where X and Y are not VF. -/
theorem spriteLights_drawn {s : State} {x y : Reg} {n : Fin 16} (hx : x ≠ 0xF) (hy : y ≠ 0xF) (row : Fin 32)
    (col : Fin 64) : spriteLights (drawn s x y n) x y n row col = spriteLights s x y n row col := by
  have only := writesOnly_drawn s x y n
  have index_eq : (drawn s x y n).i = s.i := rfl
  have mem_eq (a : Nat) : (drawn s x y n).readMem a = s.readMem a := rfl
  simp only [spriteLights, only.regs x hx, only.regs y hy, index_eq, mem_eq]

/-- Displays with the same pixels are the same. -/
theorem disp_eq_of_pixel {s t : State} (same : ∀ row col, t.pixel row col = s.pixel row col) : t.disp = s.disp := by
  apply Vector.ext
  intro row lt
  exact BitVec.eq_of_getMsbD_eq fun col hcol => same ⟨row, lt⟩ ⟨col, hcol⟩

/-- Settles O43: XOR with the same bits twice. -/
theorem drawingTwiceRestoresTheDisplay : Obligations.DrawingTwiceRestoresTheDisplay := by
  unfold Obligations.DrawingTwiceRestoresTheDisplay
  intro x y n s t u hx hy draw ok redraw
  obtain ⟨in_range, rfl⟩ := drawSprite_of_ok draw ok
  rw [exec_drawSprite_of_inRange (s := (drawn s x y n).setResult (.ok none)) x y in_range] at redraw
  cases redraw
  have same_sprite (row : Fin 32) (col : Fin 64) :
      spriteLights ((drawn s x y n).setResult (.ok none)) x y n row col = spriteLights s x y n row col :=
    spriteLights_drawn hx hy row col
  refine ⟨rfl, disp_eq_of_pixel fun row col => ?restored, fun row col lit unset => ?collides⟩
  case restored =>
    calc (drawn ((drawn s x y n).setResult (.ok none)) x y n).pixel row col
        = ((drawn s x y n).pixel row col ^^ spriteLights s x y n row col) := by
          rw [drawn_pixel, same_sprite]; rfl
      _ = s.pixel row col := by rw [drawn_pixel, Bool.xor_assoc, Bool.xor_self, Bool.xor_false]
  case collides =>
    have now_set : (drawn s x y n).pixel row col = true := by rw [drawn_pixel, lit, unset]; rfl
    exact ⟨now_set, drawn_flag_of_collision (s := (drawn s x y n).setResult (.ok none)) now_set
      ((same_sprite row col).trans lit)⟩

/-- Settles O45. -/
theorem observeShowsTheStateAndChangesNothing : Obligations.ObserveShowsTheStateAndChangesNothing := by
  unfold Obligations.ObserveShowsTheStateAndChangesNothing
  intro s
  refine ⟨rfl, fun row col => ?port, Memory.readBytes_length _ _ _, fun a lt => ?byte,
    rfl, rfl, rfl, rfl, rfl, rfl, rfl, rfl, rfl, rfl⟩
  case port => simp [State.pixel, State.displayPort, BitVec.getMsbD_eq_getLsbD]
  case byte =>
    rw [State.observe, Memory.readBytes_getD _ _ _ _ lt, Nat.zero_add]; rfl

end Sys2Proof.Machine
end

section
/-! Runs (spec/40_step.md R108, R111). -/

namespace Sys2Proof.Machine

theorem run_cons_of_ok {rnd : Byte} {s t : State} (rnds : List Byte) (h : stepWith rnd s = .next t)
    (ok : t.result.isOk = true) :
    run (rnd :: rnds) s = { results := t.result :: (run rnds t).results, state := (run rnds t).state } := by
  simp only [run, h, ok, if_true]

theorem run_cons_of_err {rnd : Byte} {s t : State} (rnds : List Byte) (h : stepWith rnd s = .next t)
    (err : t.result.isOk = false) : run (rnd :: rnds) s = { results := [t.result], state := t } := by
  simp [run, h, err]

/-- What a run begins with: its first step, and the run of the others where that step is OK. -/
theorem run_cons_cases (rnd : Byte) (rnds : List Byte) (s : State) :
    ∃ t, ((∃ d, t.result = .ok d) ∧
        run (rnd :: rnds) s = { results := t.result :: (run rnds t).results, state := (run rnds t).state }) ∨
      ((∃ k, t.result = .err k) ∧ run (rnd :: rnds) s = { results := [t.result], state := t }) := by
  obtain ⟨t, h⟩ := everyStepAnswersANextState rnd s
  cases result : t.result with
  | ok d => exact ⟨t, .inl ⟨⟨d, result⟩, result ▸ run_cons_of_ok rnds h (by rw [result]; rfl)⟩⟩
  | err k => exact ⟨t, .inr ⟨⟨k, result⟩, result ▸ run_cons_of_err rnds h (by rw [result]; rfl)⟩⟩

theorem run_length_le (rnds : List Byte) : ∀ s, (run rnds s).results.length ≤ rnds.length := by
  induction rnds with
  | nil => intro s; exact le_rfl
  | cons rnd rnds ih =>
    intro s
    obtain ⟨t, ⟨-, h⟩ | ⟨-, h⟩⟩ := run_cons_cases rnd rnds s <;> rw [h]
    · simpa using ih t
    · simp

/-- Every result but the last is OK. -/
theorem run_ok_before_last (rnds : List Byte) : ∀ (s : State) (k : Nat), k + 1 < (run rnds s).results.length →
    ∃ d, (run rnds s).results[k]? = some (.ok d) := by
  induction rnds with
  | nil => intro s k lt; exact absurd lt (Nat.not_lt_zero _)
  | cons rnd rnds ih =>
    intro s k
    obtain ⟨t, ⟨⟨d, ok⟩, h⟩ | ⟨-, h⟩⟩ := run_cons_cases rnd rnds s <;> rw [h] <;> intro lt
    · cases k with
      | zero => exact ⟨d, by simp [ok]⟩
      | succ k => simpa using ih t k (by simpa using lt)
    · simp at lt

/-- A run takes every step with result OK, or ends in an ERR. -/
theorem run_complete_or_err (rnds : List Byte) : ∀ s,
    ((run rnds s).results.length = rnds.length ∧ ∀ r ∈ (run rnds s).results, r.isOk = true) ∨
    ∃ k, (run rnds s).results.getLast? = some (.err k) := by
  induction rnds with
  | nil => intro s; exact .inl ⟨rfl, by simp [run]⟩
  | cons rnd rnds ih =>
    intro s
    obtain ⟨t, ⟨⟨d, ok⟩, h⟩ | ⟨⟨k, err⟩, h⟩⟩ := run_cons_cases rnd rnds s <;> rw [h]
    · rcases ih t with ⟨length, all_ok⟩ | ⟨k, last⟩
      · exact .inl ⟨by simp [length], by simpa [ok] using all_ok⟩
      · exact .inr ⟨k, by simp [List.getLast?_cons, last]⟩
    · exact .inr ⟨k, by simp [err]⟩

/-- The last result is that of the state the run ends in. -/
theorem run_getLast_result (rnds : List Byte) : ∀ s, rnds ≠ [] →
    (run rnds s).results.getLast? = some (run rnds s).state.result := by
  induction rnds with
  | nil => intro s ne; exact absurd rfl ne
  | cons rnd rnds ih =>
    intro s _
    obtain ⟨t, ⟨-, h⟩ | ⟨-, h⟩⟩ := run_cons_cases rnd rnds s <;> rw [h]
    · by_cases last : rnds = []
      · simp [last, run]
      · simp [List.getLast?_cons, ih t last]
    · simp

theorem RunEnd.error_eq_some_iff (r : RunEnd) (k : ErrorKind) :
    r.error = some k ↔ r.results.getLast? = some (.err k) := by
  unfold RunEnd.error
  split
  case h_1 k' last => simp [last]
  case h_2 no_err => exact iff_of_false (by simp) (no_err k)

/-- Settles O59. -/
theorem runStopsAtTheFirstError : Obligations.RunStopsAtTheFirstError := by
  unfold Obligations.RunStopsAtTheFirstError
  refine ⟨fun s => rfl, fun rnd rnds s t h => ⟨run_cons_of_ok rnds h, run_cons_of_err rnds h⟩, fun rnds s => ?_⟩
  have ends := run_complete_or_err rnds s
  refine ⟨run_length_le rnds s, run_ok_before_last rnds s, fun short => ?_, run_getLast_result rnds s,
    RunEnd.error_eq_some_iff _, fun no_error => ?_⟩
  · exact ends.resolve_left fun ⟨length, _⟩ => short.ne length
  · refine ends.resolve_right fun ⟨k, last⟩ => ?_
    simp [(RunEnd.error_eq_some_iff _ k).mpr last] at no_error

/-- An accepted sequence of events around one of them: those before it, it, and those after it, each from the state the
ones before left, with the results in order. -/
theorem handleAll_append_cons {after : List Event} {e : Event} : ∀ {before : List Event} {s : State} {r : RunEnd},
    handleAll (before ++ e :: after) s = .next r →
    ∃ (m rest : RunEnd) (t : State), handleAll before s = .next m ∧ handle e m.state = .next t ∧
      handleAll after t = .next rest ∧ r.state = rest.state ∧
      r.results = m.results ++ (e.results t ++ rest.results) := by
  intro before
  induction before with
  | nil =>
    intro s r h
    obtain ⟨t, rest, he, hafter, rfl⟩ := handleAll_cons_cases h
    exact ⟨_, rest, t, handleAll_nil s, he, hafter, rfl, rfl⟩
  | cons b before ih =>
    intro s r h
    obtain ⟨t₁, u, hb, hrest, rfl⟩ := handleAll_cons_cases h
    obtain ⟨m, rest, t, hbefore, he, hafter, state_eq, results_eq⟩ := ih hrest
    refine ⟨{ m with results := b.results t₁ ++ m.results }, rest, t, ?_, he, hafter, state_eq, ?_⟩
    · rw [handleAll_cons hb, hbefore]; rfl
    · simp [results_eq]

theorem Event.results_of_not_step {e : Event} (h : ∀ rnd, e ≠ .step rnd) (t : State) : e.results t = [] := by
  cases e with
  | step rnd => exact absurd rfl (h rnd)
  | _ => rfl

/-- Settles O60. -/
theorem hostRunObservesEveryStepResult : Obligations.HostRunObservesEveryStepResult := by
  unfold Obligations.HostRunObservesEveryStepResult
  refine ⟨fun _ _ _ => rfl, handleAll_nil, fun before after e s r h => ?_⟩
  obtain ⟨m, rest, t, hbefore, he, hafter, state_eq, results_eq⟩ := handleAll_append_cons h
  refine ⟨m, rest, t, hbefore, he, hafter, state_eq, fun rnd is_step => ?_, fun not_step => ?_⟩
  · subst is_step
    exact ⟨he, results_eq⟩
  · rw [results_eq, Event.results_of_not_step not_step, List.nil_append]

end Sys2Proof.Machine
end
